-- ==== Sys2Proof/Word.lean ====
section
/-! DEFINITION. The three widths of the block's values (spec R10, R11, R85): a byte of the stream or of the frame
buffer, a 16-bit half (imm16, CUR, DL, CAP), and a 32-bit word (a command word, HCRC, FCRC, response data). -/

namespace Sys2Proof

/-- An unsigned 8-bit value, 0..255 (R11). -/
abbrev Byte := BitVec 8

/-- A 16-bit value: imm16 (R85) and the registers CUR, DL and CAP (R10). -/
abbrev Half := BitVec 16

/-- A 32-bit value: a command word (R85), HCRC and FCRC (R20), response data (R91). -/
abbrev Word := BitVec 32

end Sys2Proof
end

