-- ==== Sys2Proof/Syntax.lean ====
section
/-! DEFINITION. The ten commands of the opcode map (spec R86 and opcode_table.json), their mnemonics' names and the
three operand formats (R87). Every operand has exactly the width its encoding gives it, so a term of `Instr` has no
ill-formed value: what can be ill-formed is a command word (WellFormed.lean) and an assembler line
(Machine/Assembler.lean). -/

namespace Sys2Proof

/-- One constructor per row of the opcode map (R86). -/
inductive Instr where
  /-- OPEN cap (R170); the operand is imm16 as an unsigned 16-bit number. -/
  | openWith (cap : Half)
  /-- CLOSE (R171). -/
  | close
  /-- PUSH b (R130); the operand is imm16[7:0]. -/
  | push (b : Byte)
  /-- PKT_ATTACH (R172). -/
  | pktAttach
  /-- PKT_DETACH (R173). -/
  | pktDetach
  /-- ERR_ATTACH (R174). -/
  | errAttach
  /-- ERR_DETACH (R175). -/
  | errDetach
  /-- CRC_CREATE (R115). -/
  | crcCreate
  /-- CRC_UPDATE b (R116); the operand is imm16[7:0]. -/
  | crcUpdate (b : Byte)
  /-- CRC_FINAL (R117). -/
  | crcFinal
deriving DecidableEq, Repr

/-- The ten assigned opcodes (R86), as names. Their numeric codes are `Opcode.code` (Machine/Operands.lean). -/
inductive Opcode where
  | openWith | close | push | pktAttach | pktDetach | errAttach | errDetach | crcCreate | crcUpdate | crcFinal
deriving DecidableEq, Repr

/-- The three operand formats of R87. -/
inductive Format where
  /-- imm16[15:0] is a 16-bit operand (OPEN). -/
  | c16
  /-- imm16[7:0] is a byte operand and imm16[15:8] must be 0 (PUSH, CRC_UPDATE). -/
  | c8
  /-- imm16 must be 0 (every other command). -/
  | c0
deriving DecidableEq, Repr

end Sys2Proof
end

