-- ==== Sys2Proof/Machine/Operands.lean ====
section
/-! DEFINITION. The fields of a command word (spec R85), the opcode map (R86), the operand formats and operand
assembly (R87), and the byte-order helpers `le16` and `le32` (R13, R54, R55). -/

namespace Sys2Proof

/-- Bits [31:24] of a command word: the opcode (R85). -/
def opField (w : Word) : Byte := w.extractLsb' 24 8

/-- Bits [23:16] of a command word: reserved, must be 0 (R85). -/
def rsvField (w : Word) : Byte := w.extractLsb' 16 8

/-- Bits [15:0] of a command word: imm16 (R85). -/
def immField (w : Word) : Half := w.extractLsb' 0 16

/-- The command word with the given three fields (R85). -/
def commandWord (op rsv : Byte) (imm : Half) : Word := op ++ rsv ++ imm

/-- The byte operand of PUSH and CRC_UPDATE: imm16[7:0] (R87). -/
def byteOperand (imm : Half) : Byte := imm.extractLsb' 0 8

/-- The bits of a C8 command's imm16 that must be 0: imm16[15:8] (R87). -/
def highOperand (imm : Half) : Byte := imm.extractLsb' 8 8

/-- The capacity operand of OPEN: imm16 itself, unsigned (R87). -/
def capOperand (imm : Half) : Half := imm

/-- imm16 of a C8 command with byte operand b: b zero-extended (R87). -/
def byteImm (b : Byte) : Half := b.setWidth 16

namespace Opcode

/-- Every assigned opcode, in the order of R86. -/
def all : List Opcode :=
  [.openWith, .close, .push, .pktAttach, .pktDetach, .errAttach, .errDetach, .crcCreate, .crcUpdate, .crcFinal]

/-- The value of the op field (R86). -/
def code : Opcode → Byte
  | .openWith => 0x01#8
  | .close => 0x02#8
  | .push => 0x03#8
  | .pktAttach => 0x04#8
  | .pktDetach => 0x05#8
  | .errAttach => 0x06#8
  | .errDetach => 0x07#8
  | .crcCreate => 0x10#8
  | .crcUpdate => 0x11#8
  | .crcFinal => 0x12#8

/-- The command an op field selects; no other opcode is defined (R86). -/
def ofCode (c : Byte) : Option Opcode := all.find? (fun o => o.code == c)

/-- The operand format of each command (R87). -/
def format : Opcode → Format
  | .openWith => .c16
  | .push => .c8
  | .crcUpdate => .c8
  | .close => .c0
  | .pktAttach => .c0
  | .pktDetach => .c0
  | .errAttach => .c0
  | .errDetach => .c0
  | .crcCreate => .c0
  | .crcFinal => .c0

end Opcode

/-- Every imm16 bit the format marks "must be 0" is 0 (R87). -/
def Format.mustBeZeroHolds : Format → Half → Bool
  | .c16, _ => true
  | .c8, imm => highOperand imm == 0#8
  | .c0, imm => imm == 0#16

/-- `le16(b0, b1) = b0 | (b1 << 8)` (R13). -/
def le16 (b0 b1 : Byte) : Half := b0.setWidth 16 ||| (b1.setWidth 16 <<< 8)

/-- `le32(b0, b1, b2, b3) = b0 | (b1 << 8) | (b2 << 16) | (b3 << 24)` (R13). -/
def le32 (b0 b1 b2 b3 : Byte) : Word :=
  b0.setWidth 32 ||| (b1.setWidth 32 <<< 8) ||| (b2.setWidth 32 <<< 16) ||| (b3.setWidth 32 <<< 24)

/-- The two bytes of a 16-bit value, least significant first (R54). -/
def bytesOfHalf (v : Half) : List Byte := [v.extractLsb' 0 8, v.extractLsb' 8 8]

/-- The four bytes of a 32-bit value, least significant first (R54). -/
def bytesOfWord (v : Word) : List Byte :=
  [v.extractLsb' 0 8, v.extractLsb' 8 8, v.extractLsb' 16 8, v.extractLsb' 24 8]

end Sys2Proof
end

