-- ==== Sys2Proof/WellFormed.lean ====
section
/-! DEFINITION. Well-formedness of a command word (spec R87). A word that is not well-formed is illegal (R88): it
answers INVALID_ARG and changes no state (Machine/Step.lean). A term of `Instr` needs no check of its own: each operand
has exactly the bits its encoding gives it. -/

namespace Sys2Proof

/-- The op field is one of the ten of R86. -/
def opAssigned (w : Word) : Bool := (Opcode.ofCode (opField w)).isSome

/-- The reserved field is 0. -/
def reservedIsZero (w : Word) : Bool := rsvField w == 0#8

/-- Every imm16 bit that the command's format marks "must be 0" is 0 (true where no command is selected: that word is
already refused by `opAssigned`). -/
def operandBitsAreZero (w : Word) : Bool :=
  match Opcode.ofCode (opField w) with
  | none => true
  | some o => o.format.mustBeZeroHolds (immField w)

/-- R87: "A command word is well-formed if and only if" op is assigned, rsv = 0 and every must-be-zero bit is 0. -/
def wellFormedWord (w : Word) : Bool := opAssigned w && reservedIsZero w && operandBitsAreZero w

end Sys2Proof
end

