-- ==== Sys2Proof/Decode.lean ====
section
/-! DEFINITION. The decoder, total on every 32-bit command word and rejecting by name (spec R87, R88, R90), and the
encoder, written from the same opcode map (R86). Every command is exactly one 32-bit word and a word is a value, not a
byte string (R56, R90): no byte order enters. -/

namespace Sys2Proof

/-- Why a command word is illegal (R88). Whichever it is, the block answers INVALID_ARG and changes no state. -/
inductive IllegalWord where
  /-- The op field is 0x00, 0x08..0x0F or 0x13..0xFF. -/
  | unassignedOp (op : Byte)
  /-- rsv is not 0. -/
  | reservedNotZero (rsv : Byte)
  /-- An imm16 bit that the command's format marks "must be 0" is 1. -/
  | operandBitsNotZero (imm : Half)
deriving DecidableEq, Repr

/-- The command an opcode makes of its imm16 (R87). -/
def Opcode.instr : Opcode → Half → Instr
  | .openWith, imm => .openWith (capOperand imm)
  | .close, _ => .close
  | .push, imm => .push (byteOperand imm)
  | .pktAttach, _ => .pktAttach
  | .pktDetach, _ => .pktDetach
  | .errAttach, _ => .errAttach
  | .errDetach, _ => .errDetach
  | .crcCreate, _ => .crcCreate
  | .crcUpdate, imm => .crcUpdate (byteOperand imm)
  | .crcFinal, _ => .crcFinal

/-- R90: "A decoder selects the command by op alone and then checks R87." -/
def decode (w : Word) : Except IllegalWord Instr :=
  match Opcode.ofCode (opField w) with
  | none => .error (.unassignedOp (opField w))
  | some o =>
    if reservedIsZero w = false then .error (.reservedNotZero (rsvField w))
    else if o.format.mustBeZeroHolds (immField w) = false then .error (.operandBitsNotZero (immField w))
    else .ok (o.instr (immField w))

/-- The opcode of a command (R86). -/
def Instr.opcode : Instr → Opcode
  | .openWith _ => .openWith
  | .close => .close
  | .push _ => .push
  | .pktAttach => .pktAttach
  | .pktDetach => .pktDetach
  | .errAttach => .errAttach
  | .errDetach => .errDetach
  | .crcCreate => .crcCreate
  | .crcUpdate _ => .crcUpdate
  | .crcFinal => .crcFinal

/-- imm16 of a command (R87). -/
def Instr.imm16 : Instr → Half
  | .openWith cap => cap
  | .push b => byteImm b
  | .crcUpdate b => byteImm b
  | .close => 0#16
  | .pktAttach => 0#16
  | .pktDetach => 0#16
  | .errAttach => 0#16
  | .errDetach => 0#16
  | .crcCreate => 0#16
  | .crcFinal => 0#16

/-- The command word of a command: its op, rsv = 0, its imm16 (R85 to R87). -/
def encode (i : Instr) : Word := commandWord i.opcode.code 0#8 i.imm16

/-- The command word whose bits the opcode table numbers as w, with every bit above nbits 0 (a table row has 32). -/
def tableWord (nbits w : Nat) : Word := BitVec.ofNat 32 (w % 2 ^ nbits)

/-- The command the decoder reads from that word; none where the word is illegal. -/
def decodeTableWord (nbits w : Nat) : Option Instr := (decode (tableWord nbits w)).toOption

end Sys2Proof
end

