-- ==== Sys2Proof/Config.lean ====
section
/-! DEFINITION. What is fixed: the constants of spec R8, the bounds of the synthesis parameter MAX_CAPACITY (R7), its
value in State.reset, and the two free values (U1 and U2 of 93_implementation_defined.md). The free values have no
body: nothing can evaluate them, and a claim holds whatever they are. -/

namespace Sys2Proof.Config

/-- The reflected polynomial (R8, R110). -/
def crcPolynomial : Word := 0xEDB88320#32

/-- The initial register (R8, R110). -/
def crcInit : Word := 0xFFFFFFFF#32

/-- The final XOR (R8, R110). -/
def crcXorOut : Word := 0xFFFFFFFF#32

/-- `'/'`: header[0] and trailer[1] (R11, R71, R76). -/
def slash : Byte := 0x2F#8

/-- `'*'`: header[1] and trailer[0] (R11, R71, R76). -/
def star : Byte := 0x2A#8

/-- The header literal (R71). -/
def header : List Byte := [slash, star]

/-- The trailer literal (R76). -/
def trailer : List Byte := [star, slash]

/-- The minimum frame length: 2 + 2 + 3 + 4 + 2 (R8). -/
def minFrame : Nat := 13

/-- The least legal MAX_CAPACITY (R7). -/
def leastMaxCapacity : Nat := 13

/-- The greatest legal MAX_CAPACITY (R7). -/
def greatestMaxCapacity : Nat := 65535

/-- DESIGN CHOICE (log entry 1, unsafe for claims about State.reset only): MAX_CAPACITY in State.reset, the value the
test vectors use. The machine reads MAX_CAPACITY from the state, so a claim over every state covers every value. -/
def resetMaxCapacity : Nat := 64

/-- The free value of a buffer byte the rules leave unspecified (R60, U1): the first argument says which use of the
buffer it belongs to (`State.epoch`), the second is its index. Log entry 3, safe. -/
opaque freeByte : Nat → Nat → Byte

/-- The free value of FCRC once it has been discarded (R144, R170, R171, R220, U2): the argument is `State.epoch` at
that moment. Log entry 4, safe. -/
opaque freeFcrc : Nat → Word

end Sys2Proof.Config
end

