-- ==== Sys2Proof/Machine/Crc.lean ====
section
/-! DEFINITION. The CRC function, CRC-32/ISO-HDLC (spec R110 to R114). -/

namespace Sys2Proof.Machine

/-- One of the eight shift steps of R111. -/
def crcShift (reg : Word) : Word :=
  if reg.getLsbD 0 then (reg >>> 1) ^^^ Config.crcPolynomial else reg >>> 1

/-- n shift steps in a row. -/
def crcShifts : Nat → Word → Word
  | 0, reg => reg
  | n + 1, reg => crcShifts n (crcShift reg)

/-- crc_step(reg, b): the byte enters the low 8 bits, then eight shift steps (R111). -/
def crcStep (reg : Word) (b : Byte) : Word := crcShifts 8 (reg ^^^ b.setWidth 32)

/-- crc_update(reg, s): crc_step folded over the bytes, first byte first (R112). -/
def crcUpdate (reg : Word) (bytes : List Byte) : Word := bytes.foldl crcStep reg

/-- The value finalize returns for a register (R113, R117). -/
def crcFinalize (reg : Word) : Word := reg ^^^ Config.crcXorOut

/-- crc32(s): create, update over s, finalize (R113). -/
def crc32 (bytes : List Byte) : Word := crcFinalize (crcUpdate Config.crcInit bytes)

end Sys2Proof.Machine
end

