-- ==== Sys2Proof/Machine/Memory.lean ====
section
/-! DEFINITION. The block's one memory, the frame buffer BUF (spec R28, R50), as a list of (index, byte) pairs in one
canonical form: indices strictly rising. An index that is not listed holds no value of its own (R60: unspecified), so
no entry can equal what an unlisted index reads as. -/

namespace Sys2Proof.Machine.Memory

/-- The canonical form: indices strictly rising. -/
abbrev wf (m : List Host.Cell) : Prop := m.Pairwise (fun x y => x.1 < y.1)

/-- What an index that is not listed reads as: no value. `bufRead` (Machine/Ops.lean) draws a free value for it. -/
def unlisted : Option Byte := none

/-- The byte listed at index i. -/
def lookup : List Host.Cell → Nat → Option Byte
  | [], _ => unlisted
  | (a, b) :: m, i => if a = i then some b else lookup m i

/-- List byte b at index i, keeping the indices in rising order (R52). -/
def write : List Host.Cell → Nat → Byte → List Host.Cell
  | [], i, b => [(i, b)]
  | (a, c) :: m, i, b =>
    if i < a then (i, b) :: (a, c) :: m
    else if i = a then (i, b) :: m
    else (a, c) :: write m i b

/-- Every index below n is listed. -/
def listedBelow (m : List Host.Cell) (n : Nat) : Bool := (List.range n).all (fun i => (lookup m i).isSome)

/-- Every listed index is below n. -/
abbrev within (m : List Host.Cell) (n : Nat) : Prop := ∀ x ∈ m, x.1 < n

end Sys2Proof.Machine.Memory
end

