-- ==== Sys2Proof/Machine/State.lean ====
section
/-! DEFINITION. The state: the ten entries of spec R20, then what the model adds so that one deterministic machine can
be run and observed (the parameter MAX_CAPACITY, the counter of the free values, the command port's input and the
record of what the block has put out on its response and sink ports). Also the records those ports carry (R91 to R94),
the reasons a step can stop, and the state after reset (R33, R220). -/

namespace Sys2Proof.Machine

/-- The six parser states (R18, R80). Their codes are `ParserState.code` (Machine/Framer.lean); codes 6 and 7 name no
state, so STATE itself is kept as its 3 bits. -/
inductive ParserState where
  | seekHeader | readLength | readType | readBody | readChecksum | seekTrailer
deriving DecidableEq, Repr

/-- The four error kinds (R190). Their codes are `ErrorKind.code` (Machine/Flags.lean). -/
inductive ErrorKind where
  | invalidArg | headerNotFoundYet | invalidPacket | internalError
deriving DecidableEq, Repr

/-- The context record of a diagnostic (R94, R195). -/
structure Context where
  /-- The code of the state the byte arrived in. -/
  state : BitVec 3
  /-- CUR at the signal. -/
  cursor : Half
  /-- DL, or the decoded L of a length rejection (17 bits). -/
  declaredLength : BitVec 17
  /-- A copy of BUF[0..min(cursor, CAP)). -/
  bytes : List Byte
deriving DecidableEq, Repr

/-- The event delivered to the error sink (R94). -/
structure ErrorEvent where
  kind : ErrorKind
  ctx : Context
deriving DecidableEq, Repr

/-- The event delivered to the packet sink (R93). -/
structure PacketEvent where
  length : Half
  bytes : List Byte
deriving DecidableEq, Repr

/-- The status of a response (R91). -/
inductive Status where
  | ok | invalidArg
deriving DecidableEq, Repr

/-- The response to a command (R91). -/
structure Response where
  status : Status
  data : Word
deriving DecidableEq, Repr

/-- One thing the block puts out: a packet at the packet sink, a diagnostic at the error sink, or a response at the
command port (R6, R91, R196, R197). -/
inductive Output where
  | packet (p : PacketEvent)
  | error (e : ErrorEvent)
  | response (r : Response)
deriving DecidableEq, Repr

/-- One thing the outside does to the block: it issues a command word (R85) or pulls hardware reset (R220). -/
inductive Input where
  | command (w : Word)
  | reset
deriving DecidableEq, Repr

/-- The state of the block. -/
structure State where
  /-- OPENED: an open parser exists (R20, R27). -/
  opened : Bool
  /-- CAP: capacity of the open parser, in bytes (R20, R26). -/
  cap : Half
  /-- STATE: the parser state code, 3 bits (R20, R23, R80). -/
  state : BitVec 3
  /-- CUR: the write cursor (R20, R24). -/
  cur : Half
  /-- DL: the declared length of the frame in progress (R20, R25). -/
  dl : Half
  /-- BUF: the frame buffer (R20, R28). A byte that is not listed is unspecified (R60). -/
  buf : List Host.Cell
  /-- FCRC: the Frame Parser's own accumulator (R20, R29). -/
  fcrc : Word
  /-- HCRC: the host-visible accumulator (R20, R30). -/
  hcrc : Word
  /-- PKT_ATT: a packet sink is attached (R20). -/
  pktAtt : Bool
  /-- ERR_ATT: an error sink is attached (R20). -/
  errAtt : Bool
  /-- MAX_CAPACITY (R7): a parameter, no register. It stands here so that a claim over every state covers every value;
  no step changes it. The model's own field (log entry 1). -/
  maxCapacity : Nat
  /-- How often the buffer and FCRC have become unspecified: the counter the free values are drawn with. The model's
  own field (log entry 3). -/
  epoch : Nat
  /-- What the outside will do next, oldest first. The model's own field (log entry 5). -/
  inputs : List Input
  /-- What the block has put out, oldest first. The model's own field (log entry 6). -/
  outputs : List Output
deriving DecidableEq, Repr

/-- The reasons the machine can stop with a fault: none. 93_implementation_defined.md: "No behaviour of this block is
treated as `fault` or `stuck`." Nobody raises one, so it has no constructor and is safe. -/
inductive Fault where
deriving DecidableEq, Repr

/-- The reasons the model gives a command no meaning. -/
inductive Refusal where
  /-- Raised by an arm of `exec` for a command with no meaning yet. No arm is left that raises it. Safe. -/
  | notModelled (mnemonic : String)
  /-- Raised by the step, for any command word or none, in a state whose STATE code is 0..5 and which breaks the
  invariant of R31; and by PUSH itself on an open block in such a state. It is reached by no run from reset, and "A state
  with a valid STATE code but an inconsistent CUR or DL has no rule, and a model refuses it" (R230, R31, D31, U5). Safe:
  nothing is claimed of what the hardware would do. -/
  | inconsistentLaunchState
deriving DecidableEq, Repr

/-- The state right after hardware reset of a block with the given MAX_CAPACITY: the table of R33. BUF and FCRC are
unspecified there: BUF lists nothing, and FCRC holds 0 (DESIGN CHOICE, log entry 2, unsafe). -/
def State.resetWith (maxCapacity : Nat) : State where
  opened := false
  cap := 0#16
  state := 0#3
  cur := 0#16
  dl := 0#16
  buf := []
  fcrc := 0#32
  hcrc := 0xFFFFFFFF#32
  pktAtt := false
  errAtt := false
  maxCapacity := maxCapacity
  epoch := 0
  inputs := []
  outputs := []

/-- The state right after reset. -/
def State.reset : State := State.resetWith Config.resetMaxCapacity

end Sys2Proof.Machine
end

