-- ==== Sys2Proof/Machine/Ops.lean ====
section
/-! DEFINITION. The shared operations over the state (spec R14): buffer reads and writes (R52, R53), the response (R91),
the raising of InvalidArg (R191), the delivery of events (R196, R197), recovery (R144, R200), hardware reset (R220) and
the command port (R85). -/

namespace Sys2Proof.Machine

/-- The outcome type of every step of this machine. -/
abbrev Result := Host.Outcome State Fault Refusal

/-! ## The frame buffer -/

/-- BufRead(i): the listed byte, else the free value of an unspecified byte (R53, R60, U1; log entry 3). -/
def bufRead (s : State) (i : Nat) : Byte := (Memory.lookup s.buf i).getD (Config.freeByte s.epoch i)

/-- BufWrite(i, b) (R52). -/
def bufWrite (i : Nat) (b : Byte) (s : State) : State := { s with buf := Memory.write s.buf i b }

/-- BUF[0..n) (R13). -/
def bufTake (s : State) (n : Nat) : List Byte := (List.range n).map (bufRead s)

/-- "every byte of BUF becomes unspecified; FCRC is discarded" (R144, R170, R171): nothing stays listed, FCRC takes a
free value, and the counter moves on so that later free values are new ones (U1, U2; log entries 3 and 4). -/
def discardFrame (s : State) : State :=
  { s with buf := [], fcrc := Config.freeFcrc s.epoch, epoch := s.epoch + 1 }

/-! ## Responses -/

/-- Return the response {status, data} (R91). -/
def respond (status : Status) (data : Word) (s : State) : State :=
  { s with outputs := s.outputs ++ [.response ⟨status, data⟩] }

/-- response <- {status: OK, data: 0} (R91). -/
def respondOk (s : State) : State := respond .ok 0#32 s

/-- raise InvalidArg(): "the response is {status: INVALID_ARG, data: 0}. No register changes and no event is produced"
(R191). -/
def raiseInvalidArg (s : State) : Result := .next (respond .invalidArg 0#32 s)

/-! ## Events and recovery: this block's exception entry. There is no return from one (R201). -/

/-- abort(): STATE <- SeekHeader, CUR <- 0, DL <- 0, and the frame is discarded (R144, R200). -/
def abort (s : State) : State := { discardFrame s with state := 0#3, cur := 0#16, dl := 0#16 }

/-- signal(K, ctx): the error event is delivered if ERR_ATT = 1 and dropped otherwise (R196). -/
def signal (kind : ErrorKind) (ctx : Context) (s : State) : State :=
  { s with outputs := s.outputs ++ (if s.errAtt then [.error ⟨kind, ctx⟩] else []) }

/-- deliver(n): the packet BUF[0..n) is delivered if PKT_ATT = 1 and dropped otherwise (R197). -/
def deliver (n : Half) (s : State) : State :=
  { s with outputs := s.outputs ++ (if s.pktAtt then [.packet ⟨n, bufTake s n.toNat⟩] else []) }

/-- The context record at this moment, with the declared length given: the copy of BUF[0..min(cursor, CAP)) is taken
before abort() (R195). -/
def contextOf (declaredLength : BitVec 17) (s : State) : Context :=
  ⟨s.state, s.cur, declaredLength, bufTake s (min s.cur.toNat s.cap.toNat)⟩

/-- Take a diagnostic: signal it with its context, then recover (R195, R196, R200). -/
def diagnose (kind : ErrorKind) (declaredLength : BitVec 17) (s : State) : State :=
  abort (signal kind (contextOf declaredLength s) s)

/-! ## Reset, and the command port -/

/-- Hardware reset: every register takes its value of R33; BUF and FCRC are left unspecified; no event and no response
(R220). -/
def hardwareReset (s : State) : State :=
  { State.resetWith s.maxCapacity with
    fcrc := Config.freeFcrc s.epoch
    epoch := s.epoch + 1
    inputs := s.inputs
    outputs := s.outputs }

/-- With nothing at the command port the block waits: "Between commands it holds its state indefinitely" (R208, R220). -/
def idle (s : State) : Result := .next s

/-- Hardware reset as a step (R220). -/
def takeReset (s : State) : Result := .next (hardwareReset s)

/-- An illegal word: status INVALID_ARG and no state change, whatever makes it illegal (R88, R89, R191 a). -/
def illegalWord (s : State) : Result := raiseInvalidArg s

/-- The port has given up its oldest input (R85). -/
def withInputs (rest : List Input) (s : State) : State := { s with inputs := rest }

/-- A word placed at the command port, to be taken next (R85). -/
def placeCommand (w : Word) (s : State) : State := { s with inputs := .command w :: s.inputs }

end Sys2Proof.Machine
end

