-- ==== Sys2Proof/Machine/ChecksumEngine.lean ====
section
/-! DEFINITION. The three host commands on HCRC (spec R115 to R117). None depends on OPENED or touches the parser. -/

namespace Sys2Proof.Machine

/-- HCRC <- v. -/
def setHcrc (v : Word) (s : State) : State := { s with hcrc := v }

/-- CRC_CREATE (R115). -/
def execCrcCreate (s : State) : Result := .next (respondOk (setHcrc Config.crcInit s))

/-- CRC_UPDATE b (R116). -/
def execCrcUpdate (b : Byte) (s : State) : Result := .next (respondOk (setHcrc (crcStep s.hcrc b) s))

/-- CRC_FINAL: the response carries the checksum and HCRC is unchanged (R117). -/
def execCrcFinal (s : State) : Result := .next (respond .ok (crcFinalize s.hcrc) s)

end Sys2Proof.Machine
end

