-- ==== Sys2Proof/Machine/Flags.lean ====
section
/-! DEFINITION. The block has no condition codes: every command's rule says "Flags written: none" (spec R21, R130). Its
only 1-bit status state is OPENED, PKT_ATT and ERR_ATT (R21); this file sets the two attach flags (R172 to R175) and
gives the numeric codes of status and error kind (R91, R92). -/

namespace Sys2Proof.Machine

/-- PKT_ATT <- v (R172, R173). -/
def setPktAtt (v : Bool) (s : State) : State := { s with pktAtt := v }

/-- ERR_ATT <- v (R174, R175). -/
def setErrAtt (v : Bool) (s : State) : State := { s with errAtt := v }

/-- OK is encoded 0 and INVALID_ARG 1 (R91). -/
def Status.code : Status → Nat
  | .ok => 0
  | .invalidArg => 1

/-- The 8-bit error kind codes (R92). -/
def ErrorKind.code : ErrorKind → Byte
  | .invalidArg => 1#8
  | .headerNotFoundYet => 2#8
  | .invalidPacket => 3#8
  | .internalError => 4#8

end Sys2Proof.Machine
end

