-- ==== Sys2Proof/Machine/Control.lean ====
section
/-! DEFINITION. Lifecycle and sink control: OPEN, CLOSE and the four sink commands (spec R170 to R175). -/

namespace Sys2Proof.Machine

/-- The capacities OPEN accepts: 13 <= cap <= MAX_CAPACITY (R170). -/
def capacityAccepted (cap : Half) (s : State) : Bool := Nat.ble 13 cap.toNat && Nat.ble cap.toNat s.maxCapacity

/-- The registers after an accepted OPEN: an empty parser with capacity cap; a partial frame is dropped silently
(R170). -/
def openParser (cap : Half) (s : State) : State := { abort s with opened := true, cap := cap }

/-- The registers after an accepted CLOSE (R171). -/
def closeParser (s : State) : State := { abort s with opened := false, cap := 0#16 }

/-- OPEN cap (R170). -/
def execOpen (cap : Half) (s : State) : Result :=
  if capacityAccepted cap s then .next (respondOk (openParser cap s)) else raiseInvalidArg s

/-- CLOSE (R171). -/
def execClose (s : State) : Result :=
  if s.opened then .next (respondOk (closeParser s)) else raiseInvalidArg s

/-- PKT_ATTACH (R172). -/
def execPktAttach (s : State) : Result := .next (respondOk (setPktAtt true s))

/-- PKT_DETACH (R173). -/
def execPktDetach (s : State) : Result := .next (respondOk (setPktAtt false s))

/-- ERR_ATTACH (R174). -/
def execErrAttach (s : State) : Result := .next (respondOk (setErrAtt true s))

/-- ERR_DETACH (R175). -/
def execErrDetach (s : State) : Result := .next (respondOk (setErrAtt false s))

end Sys2Proof.Machine
end

