-- ==== Sys2Proof/Machine/Frame.lean ====
section
/-! DEFINITION. The frame wire format (spec R70 to R78), apart from any machine: the bytes a sender writes, and which
byte strings are valid frames. -/

namespace Sys2Proof.Machine.Frame

/-- Everything before the checksum field: header, body length, type, body (R70). -/
def beforeChecksum (t0 t1 t2 : Byte) (body : List Byte) : List Byte :=
  Config.header ++ bytesOfHalf (BitVec.ofNat 16 body.length) ++ [t0, t1, t2] ++ body

/-- The checksum of a frame whose bytes before the checksum field are p: the trailer literal is in the checksum domain
(R75, R228). -/
def checksum (p : List Byte) : Word := crc32 (p ++ Config.trailer)

/-- The frame with the given type and body (R70). It is one when the body has at most 65535 bytes (R72). -/
def build (t0 t1 t2 : Byte) (body : List Byte) : List Byte :=
  beforeChecksum t0 t1 t2 body ++ bytesOfWord (checksum (beforeChecksum t0 t1 t2 body)) ++ Config.trailer

/-- The declared length 13 + le16(b2, b3), in 17 bits, so that it never wraps (R72, R136). -/
def declared (b2 b3 : Byte) : BitVec 17 := 13#17 + (le16 b2 b3).setWidth 17

/-- f is a valid frame for capacity cap (R78). -/
def valid (cap : Half) (f : List Byte) : Bool :=
  Nat.ble 13 f.length
    && f.take 2 == Config.header
    && f.length == (declared (f.getD 2 0#8) (f.getD 3 0#8)).toNat
    && Nat.ble f.length cap.toNat
    && le32 (f.getD (f.length - 6) 0#8) (f.getD (f.length - 5) 0#8) (f.getD (f.length - 4) 0#8)
        (f.getD (f.length - 3) 0#8) == checksum (f.take (f.length - 6))
    && f.drop (f.length - 2) == Config.trailer

end Sys2Proof.Machine.Frame
end

