-- ==== Sys2Proof/Machine/Reachable.lean ====
section
/-! DEFINITION. The reachable-state invariant of spec R31, as a check on the registers and the buffer, and the parser
state codes of R80 it is stated with; and the launch states, from any other of which a step is refused (R230, D31, U5). -/

namespace Sys2Proof.Machine

/-- The code of each parser state (R80). -/
def ParserState.code : ParserState → BitVec 3
  | .seekHeader => 0#3
  | .readLength => 1#3
  | .readType => 2#3
  | .readBody => 3#3
  | .readChecksum => 4#3
  | .seekTrailer => 5#3

/-- The parser state a code names; codes 6 and 7 name none (R80). -/
def ParserState.ofCode (c : BitVec 3) : Option ParserState :=
  [ParserState.seekHeader, .readLength, .readType, .readBody, .readChecksum, .seekTrailer].find? (fun p => p.code == c)

/-- The 32-bit value in the checksum field: le32 of BUF[DL-6..DL-2), byte DL-6 least significant (R54, R140). -/
def receivedChecksum (s : State) : Word :=
  le32 (bufRead s (s.dl.toNat - 6)) (bufRead s (s.dl.toNat - 5)) (bufRead s (s.dl.toNat - 4)) (bufRead s (s.dl.toNat - 3))

/-- BUF[0..DL-6) ++ [0x2A, 0x2F]: the checksum domain (R139). -/
def checksumDomain (s : State) : List Byte := bufTake s (s.dl.toNat - 6) ++ Config.trailer

/-- BUF[0..2) is the header. -/
def headerHeld (s : State) : Bool := bufRead s 0 == Config.slash && bufRead s 1 == Config.star

/-- The buffer holds the header and a length field that gives DL, and 13 <= DL <= CAP. -/
def lengthHeld (s : State) : Bool :=
  headerHeld s && (Frame.declared (bufRead s 2) (bufRead s 3)).toNat == s.dl.toNat
    && Nat.ble 13 s.dl.toNat && Nat.ble s.dl.toNat s.cap.toNat

/-- The row of R31's table for each parser state: CUR, DL and the bytes of BUF[0..CUR). -/
def rowHolds (s : State) : ParserState → Bool
  | .seekHeader => s.dl == 0#16 && (s.cur == 0#16 || (s.cur == 1#16 && bufRead s 0 == Config.slash))
  | .readLength => s.dl == 0#16 && (s.cur == 2#16 || s.cur == 3#16) && headerHeld s
  | .readType => (s.cur == 4#16 || s.cur == 5#16 || s.cur == 6#16) && lengthHeld s
  | .readBody => Nat.ble 7 s.cur.toNat && Nat.blt (s.cur.toNat + 6) s.dl.toNat && lengthHeld s
  | .readChecksum => Nat.ble s.dl.toNat (s.cur.toNat + 6) && Nat.blt (s.cur.toNat + 2) s.dl.toNat && lengthHeld s
  | .seekTrailer =>
    (s.cur.toNat + 2 == s.dl.toNat || (s.cur.toNat + 1 == s.dl.toNat && bufRead s (s.dl.toNat - 2) == Config.star))
      && lengthHeld s && receivedChecksum s == crc32 (checksumDomain s)

/-- The rule of R31 for a block with OPENED = 1, in parser state p: 13 <= CAP <= MAX_CAPACITY, every byte of BUF[0..CUR)
is held, and the row of p. -/
def openConsistent (s : State) (p : ParserState) : Bool :=
  Nat.ble 13 s.cap.toNat && Nat.ble s.cap.toNat s.maxCapacity && Memory.listedBelow s.buf s.cur.toNat && rowHolds s p

/-- The rule of R31 for a block with OPENED = 0. -/
def closedConsistent (s : State) : Bool := s.state == 0#3 && s.cur == 0#16 && s.dl == 0#16 && s.cap == 0#16

/-- The reachable-state invariant of R31. STATE codes 6 and 7 break it. -/
def consistent (s : State) : Bool :=
  if s.opened then
    match ParserState.ofCode s.state with
    | some p => openConsistent s p
    | none => false
  else closedConsistent s

/-- The launch states: those that meet R31, and those with STATE = 6 or 7, "whose rule exists" (R31, R230, D31, U5, U6). -/
def launchable (s : State) : Bool := (ParserState.ofCode s.state).isNone || consistent s

/-- What the machine does from s if s is a launch state; from any other, "a model refuses it" (R230, D31, U5). -/
def fromLaunchState (s : State) (r : Result) : Result :=
  if launchable s then r else .refused .inconsistentLaunchState

end Sys2Proof.Machine
end

