-- ==== Sys2Proof/Machine/Framer.lean ====
section
/-! DEFINITION. The Frame Parser: PUSH and the six-state machine (spec R130 to R144). -/

namespace Sys2Proof.Machine

/-- STATE <- p. -/
def setParser (p : ParserState) (s : State) : State := { s with state := p.code }

/-- DL as the declared length of a context record. -/
def declaredDl (s : State) : BitVec 17 := s.dl.setWidth 17

/-- seek_header(b) with CUR = 0: a `'/'` starts a header, any other byte is dropped (R131). -/
def seekFirst (b : Byte) (s : State) : State :=
  if b = Config.slash then { bufWrite 0 b s with cur := 1#16 } else s

/-- seek_header(b) with CUR = 1: `'*'` completes the header (R132); any other byte is a HeaderNotFoundYet, and is
re-examined as a first header byte after the recovery (R133). -/
def seekSecond (b : Byte) (s : State) : State :=
  if b = Config.star then setParser .readLength { bufWrite 1 b s with cur := 2#16 }
  else seekFirst b (diagnose .headerNotFoundYet (declaredDl s) s)

/-- seek_header(b) (R131 to R133). -/
def seekHeader (b : Byte) (s : State) : State := if s.cur = 0#16 then seekFirst b s else seekSecond b s

/-- accept(b): the byte is written at BUF[CUR] and CUR is incremented before any check (R134). -/
def accept (b : Byte) (s : State) : State := { bufWrite s.cur.toNat b s with cur := s.cur + 1#16 }

/-- L = 13 + zext_17(le16(BUF[2], BUF[3])) (R136). -/
def declaredLength (s : State) : BitVec 17 := Frame.declared (bufRead s 2) (bufRead s 3)

/-- read_length(), after accept: the length check at CUR = 4 (R135, R136). -/
def readLength (s : State) : State :=
  if s.cur = 4#16 then
    if (declaredLength s).toNat < 13 ∨ s.cap.toNat < (declaredLength s).toNat then
      diagnose .invalidPacket (declaredLength s) s
    else setParser .readType { s with dl := (declaredLength s).setWidth 16 }
  else s

/-- read_type(), after accept (R137). -/
def readType (s : State) : State :=
  if s.cur = 7#16 then
    if s.dl = 13#16 then setParser .readChecksum s else setParser .readBody s
  else s

/-- read_body(), after accept (R138). -/
def readBody (s : State) : State :=
  if s.cur.toNat + 6 = s.dl.toNat then setParser .readChecksum s else s

/-- FCRC after create and update over the checksum domain; finalizing it gives the expected checksum (R139). -/
def runFcrc (s : State) : State := { s with fcrc := crcUpdate Config.crcInit (checksumDomain s) }

/-- check_checksum(expected), with expected = FCRC ^ 0xFFFFFFFF (R139, R140). -/
def checkChecksum (s : State) : State :=
  if receivedChecksum s = crcFinalize s.fcrc then setParser .seekTrailer s
  else diagnose .invalidPacket (declaredDl s) s

/-- read_checksum(), after accept: decided when the fourth checksum byte has arrived (R139, R156). -/
def readChecksum (s : State) : State :=
  if s.cur.toNat + 2 = s.dl.toNat then checkChecksum (runFcrc s) else s

/-- seek_trailer(b), after accept (R141, R142). -/
def seekTrailer (b : Byte) (s : State) : State :=
  if s.cur.toNat + 1 = s.dl.toNat then
    if b = Config.star then s else diagnose .invalidPacket (declaredDl s) s
  else
    if b = Config.slash then abort (deliver s.dl s) else diagnose .invalidPacket (declaredDl s) s

/-- internal_error(): STATE holds 6 or 7; no byte is written and the pushed byte is consumed (R143). -/
def internalError (s : State) : State := diagnose .internalError (declaredDl s) s

/-- The case of R130 for each parser state. -/
def pushIn (b : Byte) (s : State) : ParserState → State
  | .seekHeader => seekHeader b s
  | .readLength => readLength (accept b s)
  | .readType => readType (accept b s)
  | .readBody => readBody (accept b s)
  | .readChecksum => readChecksum (accept b s)
  | .seekTrailer => seekTrailer b (accept b s)

/-- PUSH b (R130). On an open block the STATE code selects the case; 6 and 7 are an InternalError (R143). A state with
a code of 0..5 that breaks R31 has no rule and is refused (R230). On a closed block this is INVALID_ARG, as R130 tests
OPENED before it reads anything else; a closed launch state that breaks R31 is refused by the step (log entry 7). -/
def execPush (b : Byte) (s : State) : Result :=
  if s.opened = false then raiseInvalidArg s
  else
    match ParserState.ofCode s.state with
    | none => .next (respondOk (internalError s))
    | some p =>
      if openConsistent s p then .next (respondOk (pushIn b s p))
      else .refused .inconsistentLaunchState

end Sys2Proof.Machine
end

