-- ==== Sys2Proof/Machine/Dispatch.lean ====
section
/-! DEFINITION. One arm per command (spec R86). -/

namespace Sys2Proof.Machine

def exec (i : Instr) (s : State) : Host.Outcome State Fault Refusal :=
  match i with
  | .openWith cap => Sys2Proof.Machine.execOpen cap s
  | .close => Sys2Proof.Machine.execClose s
  | .push b => Sys2Proof.Machine.execPush b s
  | .pktAttach => Sys2Proof.Machine.execPktAttach s
  | .pktDetach => Sys2Proof.Machine.execPktDetach s
  | .errAttach => Sys2Proof.Machine.execErrAttach s
  | .errDetach => Sys2Proof.Machine.execErrDetach s
  | .crcCreate => Sys2Proof.Machine.execCrcCreate s
  | .crcUpdate b => Sys2Proof.Machine.execCrcUpdate b s
  | .crcFinal => Sys2Proof.Machine.execCrcFinal s

end Sys2Proof.Machine
end

