-- ==== Sys2Proof/Machine/Step.lean ====
section
/-! DEFINITION. One step: the block takes the oldest input and runs it to its response (spec R58, R61, R85). A command
word is checked for well-formedness first (R88, R199). -/

namespace Sys2Proof.Machine

/-- One command word: an illegal word answers INVALID_ARG, a legal one runs its command (R88, R199). -/
def runWord (w : Word) (s : State) : Host.Outcome State Fault Refusal :=
  match decode w with
  | .error _ => illegalWord s
  | .ok i => exec i s

/-- One step. With no input the block holds its state (R208). A state that is no launch state is refused, whatever would
run from it (R31, R230), but for a hardware reset, which sets every register (R34, R220; log entry 7). -/
def step (s : State) : Host.Outcome State Fault Refusal :=
  match s.inputs with
  | [] => fromLaunchState s (idle s)
  | .reset :: rest => takeReset (withInputs rest s)
  | .command w :: rest => fromLaunchState s (runWord w (withInputs rest s))

/-- s with the command word of the table's bits w placed so that the very next step takes it (log entry 5). -/
def State.withFetchWord (s : State) (nbits w : Nat) : State := placeCommand (tableWord nbits w) s

end Sys2Proof.Machine
end

