-- ==== Sys2Proof/Machine/Assembler.lean ====
section
/-! DEFINITION. The assembler of spec R95 and the pseudo-instructions of R96. A line is a list of characters; it
expands to commands, whose words are their encodings. -/

namespace Sys2Proof.Machine.Asm

/-- Why a line is not assembled (R95). -/
inductive AsmError where
  /-- The line does not begin with a mnemonic of R86 or R96. -/
  | unknownMnemonic
  /-- An operand is written in none of the three forms, or what follows the operands is neither a comma nor a comment. -/
  | malformedOperand
  /-- The mnemonic takes other operands than those written. -/
  | wrongOperands
  /-- An operand is out of range (or a FRAME body is longer than a length field can say). -/
  | outOfRange
deriving DecidableEq, Repr

/-- A mnemonic: a command (R86) or a pseudo-instruction (R96). -/
inductive Mnemonic where
  | command (o : Opcode)
  | pushs | pushb | crcUpdates | frame | attachAll
deriving DecidableEq, Repr

/-- An operand: a number (decimal, hexadecimal or a quoted character, R95) or a quoted text (R96). -/
inductive Arg where
  | number (n : Nat)
  | text (bytes : List Byte)
deriving DecidableEq, Repr

/-- The spelling of each command's mnemonic (R86). -/
def opcodeName : Opcode → List Char
  | .openWith => ['O', 'P', 'E', 'N']
  | .close => ['C', 'L', 'O', 'S', 'E']
  | .push => ['P', 'U', 'S', 'H']
  | .pktAttach => ['P', 'K', 'T', '_', 'A', 'T', 'T', 'A', 'C', 'H']
  | .pktDetach => ['P', 'K', 'T', '_', 'D', 'E', 'T', 'A', 'C', 'H']
  | .errAttach => ['E', 'R', 'R', '_', 'A', 'T', 'T', 'A', 'C', 'H']
  | .errDetach => ['E', 'R', 'R', '_', 'D', 'E', 'T', 'A', 'C', 'H']
  | .crcCreate => ['C', 'R', 'C', '_', 'C', 'R', 'E', 'A', 'T', 'E']
  | .crcUpdate => ['C', 'R', 'C', '_', 'U', 'P', 'D', 'A', 'T', 'E']
  | .crcFinal => ['C', 'R', 'C', '_', 'F', 'I', 'N', 'A', 'L']

/-- Every mnemonic with its spelling (R86, R96). -/
def mnemonics : List (List Char × Mnemonic) :=
  Opcode.all.map (fun o => (opcodeName o, .command o)) ++
    [(['P', 'U', 'S', 'H', 'S'], .pushs),
     (['P', 'U', 'S', 'H', 'B'], .pushb),
     (['C', 'R', 'C', '_', 'U', 'P', 'D', 'A', 'T', 'E', 'S'], .crcUpdates),
     (['F', 'R', 'A', 'M', 'E'], .frame),
     (['A', 'T', 'T', 'A', 'C', 'H', '_', 'A', 'L', 'L'], .attachAll)]

/-- A blank between the parts of a line: a space or a tab (log entry 8). -/
def isBlank (c : Char) : Bool := c == ' ' || c == '\t'

/-- A character of a mnemonic: a capital letter or an underscore. -/
def isNameChar (c : Char) : Bool := (Nat.ble 65 c.toNat && Nat.ble c.toNat 90) || c == '_'

/-- A printable ASCII character (R95, G3). -/
def isPrintable (c : Char) : Bool := Nat.ble 32 c.toNat && Nat.ble c.toNat 126

/-- A decimal digit. -/
def isDecDigit (c : Char) : Bool := Nat.ble 48 c.toNat && Nat.ble c.toNat 57

/-- A hexadecimal digit, of either case (log entry 8). -/
def isHexDigit (c : Char) : Bool :=
  isDecDigit c || (Nat.ble 65 c.toNat && Nat.ble c.toNat 70) || (Nat.ble 97 c.toNat && Nat.ble c.toNat 102)

/-- The value of a hexadecimal digit. -/
def digitValue (c : Char) : Nat :=
  if c.toNat ≤ 57 then c.toNat - 48 else if c.toNat ≤ 70 then c.toNat - 55 else c.toNat - 87

/-- The value of a row of digits in a base. -/
def digitsValue (base : Nat) (cs : List Char) : Nat := cs.foldl (fun n c => n * base + digitValue c) 0

/-- The ASCII code of a character, as a byte. -/
def asciiByte (c : Char) : Byte := BitVec.ofNat 8 c.toNat

/-- A row of digits after which something follows. -/
def digitsArg (base : Nat) (isDigit : Char → Bool) (cs : List Char) : Except AsmError (Arg × List Char) :=
  match cs.takeWhile isDigit with
  | [] => .error .malformedOperand
  | ds => .ok (.number (digitsValue base ds), cs.dropWhile isDigit)

/-- A quoted text, from after its opening quote; every character of it is printable ASCII. -/
def textArg (cs : List Char) : Except AsmError (Arg × List Char) :=
  match cs.dropWhile (fun c => c != '"') with
  | [] => .error .malformedOperand
  | _ :: rest =>
    if (cs.takeWhile (fun c => c != '"')).all isPrintable then
      .ok (.text ((cs.takeWhile (fun c => c != '"')).map asciiByte), rest)
    else .error .malformedOperand

/-- One operand and what follows it (R95, R96). -/
def readArg : List Char → Except AsmError (Arg × List Char)
  | '0' :: 'x' :: cs => digitsArg 16 isHexDigit cs
  | '\'' :: c :: '\'' :: cs => if isPrintable c then .ok (.number c.toNat, cs) else .error .malformedOperand
  | '"' :: cs => textArg cs
  | cs => digitsArg 10 isDecDigit cs

/-- What may stand after the last operand: nothing, or a comment (R95). -/
def atEnd : List Char → Bool
  | [] => true
  | c :: _ => c == ';'

/-- One or more operands parted by commas, up to the end of the line or its comment. The first argument bounds how
many are read. Any number of blanks may stand on either side of an operand, so before and after each comma; R95 does not say
(DESIGN CHOICE, log entry 8). -/
def readArgs : Nat → List Char → Except AsmError (List Arg)
  | 0, _ => .error .malformedOperand
  | n + 1, cs =>
    match readArg (cs.dropWhile isBlank) with
    | .error e => .error e
    | .ok (a, rest) =>
      match rest.dropWhile isBlank with
      | [] => .ok [a]
      | ';' :: _ => .ok [a]
      | ',' :: more => (readArgs n more).map (fun as => a :: as)
      | _ :: _ => .error .malformedOperand

/-- The operands of a line, from after its mnemonic: none, or one or more after a blank. -/
def operands (cs : List Char) : Except AsmError (List Arg) :=
  if atEnd (cs.dropWhile isBlank) then .ok []
  else if (cs.takeWhile isBlank).isEmpty then .error .malformedOperand
  else readArgs cs.length cs

/-- A byte operand, 0..255 (R95). -/
def byteArg : Arg → Except AsmError Byte
  | .number n => if n ≤ 255 then .ok (BitVec.ofNat 8 n) else .error .outOfRange
  | .text _ => .error .wrongOperands

/-- A list of byte operands. -/
def byteArgs : List Arg → Except AsmError (List Byte)
  | [] => .ok []
  | a :: as =>
    match byteArg a with
    | .error e => .error e
    | .ok b => (byteArgs as).map (fun bs => b :: bs)

/-- A command that takes no operand. -/
def noOperand (i : Instr) : List Arg → Except AsmError (List Instr)
  | [] => .ok [i]
  | _ :: _ => .error .wrongOperands

/-- A command that takes one byte operand. -/
def oneByte (f : Byte → Instr) : List Arg → Except AsmError (List Instr)
  | [a] => (byteArg a).map (fun b => [f b])
  | _ => .error .wrongOperands

/-- OPEN takes a capacity, 0..65535 (R95). -/
def oneCapacity : List Arg → Except AsmError (List Instr)
  | [.number n] => if n ≤ 65535 then .ok [.openWith (BitVec.ofNat 16 n)] else .error .outOfRange
  | _ => .error .wrongOperands

/-- A pseudo-instruction that takes one text and gives a command per byte of it (R96). -/
def eachByte (f : Byte → Instr) : List Arg → Except AsmError (List Instr)
  | [.text bs] => .ok (bs.map f)
  | _ => .error .wrongOperands

/-- FRAME t0, t1, t2, "body": the PUSHes of the frame with that type and body (R96). A body of 65523..65535 bytes, for
which R77 leaves no valid frame of R78 under any CAP, is laid out like any other; only a body that the length field
cannot say is out of range. R96 gives neither (DESIGN CHOICE, log entry 8). -/
def frameCommands : List Arg → Except AsmError (List Instr)
  | [a0, a1, a2, .text body] =>
    match byteArgs [a0, a1, a2] with
    | .ok [t0, t1, t2] =>
      if body.length ≤ 65535 then .ok ((Frame.build t0 t1 t2 body).map .push) else .error .outOfRange
    | .ok _ => .error .wrongOperands
    | .error e => .error e
  | _ => .error .wrongOperands

/-- PUSHB b0, b1, ...: a PUSH per listed byte (R96). -/
def listedBytes : List Arg → Except AsmError (List Instr)
  | [] => .error .wrongOperands
  | as => (byteArgs as).map (fun bs => bs.map .push)

/-- The commands a mnemonic and its operands stand for (R95, R96). -/
def expand : Mnemonic → List Arg → Except AsmError (List Instr)
  | .command .openWith, as => oneCapacity as
  | .command .push, as => oneByte .push as
  | .command .crcUpdate, as => oneByte .crcUpdate as
  | .command .close, as => noOperand .close as
  | .command .pktAttach, as => noOperand .pktAttach as
  | .command .pktDetach, as => noOperand .pktDetach as
  | .command .errAttach, as => noOperand .errAttach as
  | .command .errDetach, as => noOperand .errDetach as
  | .command .crcCreate, as => noOperand .crcCreate as
  | .command .crcFinal, as => noOperand .crcFinal as
  | .pushs, as => eachByte .push as
  | .pushb, as => listedBytes as
  | .crcUpdates, as => eachByte .crcUpdate as
  | .frame, as => frameCommands as
  | .attachAll, [] => .ok [.pktAttach, .errAttach]
  | .attachAll, _ :: _ => .error .wrongOperands

/-- The mnemonic a name spells. -/
def mnemonicOf (name : List Char) : Option Mnemonic := (mnemonics.find? (fun row => row.1 == name)).map Prod.snd

/-- The commands of one line `MNEMONIC [operand] [; comment]` (R95, R96). Any number of blanks may stand before the
mnemonic; R95 does not say (DESIGN CHOICE, log entry 8). -/
def assembleLine (line : List Char) : Except AsmError (List Instr) :=
  match mnemonicOf ((line.dropWhile isBlank).takeWhile isNameChar) with
  | none => .error .unknownMnemonic
  | some m =>
    match operands ((line.dropWhile isBlank).dropWhile isNameChar) with
    | .error e => .error e
    | .ok as => expand m as

/-- The command words of one line, in order (R95, R96). -/
def assembleWords (line : List Char) : Except AsmError (List Word) := (assembleLine line).map (fun is => is.map encode)

/-- The command words of a list of lines, in order; the first line that is in error makes the whole an error (log entry
8). -/
def assemble : List (List Char) → Except AsmError (List Word)
  | [] => .ok []
  | line :: lines =>
    match assembleWords line with
    | .error e => .error e
    | .ok ws => (assemble lines).map (fun more => ws ++ more)

end Sys2Proof.Machine.Asm
end

