-- ==== Sys2Proof/Safety.lean ====
section
/-! DEFINITION. What claims about the block are stated with: the invariant of its reachable states, runs of PUSHes, and
the shape of a state after recovery. -/

namespace Sys2Proof.Machine

/-- The invariant of the reachable states: MAX_CAPACITY is legal (R7), BUF is in its canonical form and gives no byte at
or beyond CUR a defined value (R60), and R31 holds. -/
abbrev State.Inv (s : State) : Prop :=
  (Config.leastMaxCapacity ≤ s.maxCapacity ∧ s.maxCapacity ≤ Config.greatestMaxCapacity) ∧
    Memory.wf s.buf ∧ Memory.within s.buf s.cur.toNat ∧ consistent s = true

/-- The response OK with data 0 (R91). -/
def okResponse : Output := .response ⟨.ok, 0#32⟩

/-- The response INVALID_ARG with data 0 (R91, R191). -/
def invalidArgResponse : Output := .response ⟨.invalidArg, 0#32⟩

/-- An event, as against a response (R17). -/
def Output.isEvent : Output → Bool
  | .packet _ => true
  | .error _ => true
  | .response _ => false

/-- The diagnostic of a stray header byte (R133). -/
def headerNotFoundEvent : Output := .error ⟨.headerNotFoundYet, ⟨0#3, 1#16, 0#17, [Config.slash]⟩⟩

/-- Every register outside the parser, the parameter and the command port of t are those of s. -/
abbrev SameOutsideParser (s t : State) : Prop :=
  t.opened = s.opened ∧ t.cap = s.cap ∧ t.hcrc = s.hcrc ∧ t.pktAtt = s.pktAtt ∧ t.errAtt = s.errAtt ∧
    t.maxCapacity = s.maxCapacity ∧ t.inputs = s.inputs

/-- The parser of t is an empty SeekHeader and no byte of its BUF has a defined value (R144). -/
abbrev EmptyParser (t : State) : Prop :=
  t.state = 0#3 ∧ t.cur = 0#16 ∧ t.dl = 0#16 ∧ ∀ i, Memory.lookup t.buf i = Memory.unlisted

/-- t is what s becomes when the parser recovers (R144) and outs is put out. FCRC and the unspecified bytes are left
open. -/
abbrev RecoveredTo (s t : State) (outs : List Output) : Prop :=
  EmptyParser t ∧ SameOutsideParser s t ∧ t.outputs = s.outputs ++ outs

/-- s and t agree in every register of R20 but FCRC, whose value is never observable (R29), and in which bytes of BUF
have which defined values. -/
abbrev SameRegisters (s t : State) : Prop :=
  t.opened = s.opened ∧ t.cap = s.cap ∧ t.state = s.state ∧ t.cur = s.cur ∧ t.dl = s.dl ∧ t.hcrc = s.hcrc ∧
    t.pktAtt = s.pktAtt ∧ t.errAtt = s.errAtt ∧ ∀ i, Memory.lookup t.buf i = Memory.lookup s.buf i

/-- What reaches a sink: the event if the sink is attached, nothing otherwise (R196, R197). -/
def ifAttached (attached : Bool) (event : Output) : List Output := if attached then [event] else []

/-- The commands PUSH b, one per byte, run one after the other. -/
def pushAll : List Byte → State → Result
  | [], s => .next s
  | b :: bs, s =>
    match exec (.push b) s with
    | .next t => pushAll bs t
    | r => r

/-- No two adjacent bytes of g are 0x2F 0x2A (R153). -/
def noHeaderIn : List Byte → Bool
  | [] => true
  | [_] => true
  | a :: b :: g => !(a == Config.slash && b == Config.star) && noHeaderIn (b :: g)

/-- How many bytes 0x2F of g are followed, in g ++ [next], by a byte other than 0x2A (R153). -/
def strayCount (next : Byte) : List Byte → Nat
  | [] => 0
  | [a] => if a = Config.slash ∧ next ≠ Config.star then 1 else 0
  | a :: b :: g => (if a = Config.slash ∧ b ≠ Config.star then 1 else 0) + strayCount next (b :: g)

end Sys2Proof.Machine
end

