-- ==== Sys2Proof/Certificates/Slice0/Obligations.lean ====
section
/-! DEFINITION. The statements for the provers. Each docstring names the rules of the spec it formalises. -/

open Sys2Proof Sys2Proof.Machine

/-! ## Encoding -/

/-- The words of the ten rows of the opcode map (R86) decode to their commands; the operands are those of R95 and of
95_test_vectors.md. -/
def Obligations.OpcodeMapWordsDecode : Prop :=
  decode 0x01000040#32 = .ok (.openWith 64#16) ∧ decode 0x0100FFFF#32 = .ok (.openWith 0xFFFF#16) ∧
    decode 0x02000000#32 = .ok .close ∧ decode 0x0300002F#32 = .ok (.push 0x2F#8) ∧
    decode 0x030000FF#32 = .ok (.push 0xFF#8) ∧ decode 0x04000000#32 = .ok .pktAttach ∧
    decode 0x05000000#32 = .ok .pktDetach ∧ decode 0x06000000#32 = .ok .errAttach ∧
    decode 0x07000000#32 = .ok .errDetach ∧ decode 0x10000000#32 = .ok .crcCreate ∧
    decode 0x11000048#32 = .ok (.crcUpdate 0x48#8) ∧ decode 0x12000000#32 = .ok .crcFinal

/-- Every command, with every value of its operand, is what its own word decodes to (R85 to R87). -/
def Obligations.DecodeOfEncodeGivesTheCommandBack : Prop :=
  ∀ i : Instr, decode (encode i) = .ok i

/-- A word that decodes to a command is that command's only word (R85 to R87). -/
def Obligations.EncodeOfDecodeGivesTheWordBack : Prop :=
  ∀ (w : Word) (i : Instr), decode w = .ok i → encode i = w

/-- R87, with the fields of R85 as quotients and remainders of the word's number: which words are well-formed, that
exactly those decode, and what the operands are. -/
def Obligations.WellFormedWordsAreThoseOfTheFormats : Prop :=
  (∀ w : Word,
    wellFormedWord w = true ↔
      w.toNat / 2 ^ 24 ∈ [0x01, 0x02, 0x03, 0x04, 0x05, 0x06, 0x07, 0x10, 0x11, 0x12] ∧
        w.toNat / 2 ^ 16 % 2 ^ 8 = 0 ∧
        (w.toNat / 2 ^ 24 ∈ [0x03, 0x11] → w.toNat / 2 ^ 8 % 2 ^ 8 = 0) ∧
        (w.toNat / 2 ^ 24 ∈ [0x02, 0x04, 0x05, 0x06, 0x07, 0x10, 0x12] → w.toNat % 2 ^ 16 = 0)) ∧
    (∀ w : Word, wellFormedWord w = true ↔ ∃ i, decode w = .ok i) ∧
    (∀ (w : Word) (b : Byte), decode w = .ok (.push b) → b.toNat = w.toNat % 2 ^ 8) ∧
    (∀ (w : Word) (b : Byte), decode w = .ok (.crcUpdate b) → b.toNat = w.toNat % 2 ^ 8) ∧
    (∀ (w : Word) (c : Half), decode w = .ok (.openWith c) → c.toNat = w.toNat % 2 ^ 16)

/-- R88: the listed words are illegal, and an illegal word at the command port answers INVALID_ARG and changes nothing
else, in every launch state of R230 (so before any check that depends on the registers). -/
def Obligations.IllegalWordAnswersInvalidArg : Prop :=
  (∀ w : Word, wellFormedWord w = true → w.toNat / 2 ^ 24 ≠ 0x00) ∧
    (∀ w : Word, 0x08 ≤ w.toNat / 2 ^ 24 → w.toNat / 2 ^ 24 ≤ 0x0F → wellFormedWord w = false) ∧
    (∀ w : Word, 0x13 ≤ w.toNat / 2 ^ 24 → wellFormedWord w = false) ∧
    (∀ w : Word, w.toNat / 2 ^ 16 % 2 ^ 8 ≠ 0 → wellFormedWord w = false) ∧
    (∀ w : Word, w.toNat / 2 ^ 24 ∈ [0x03, 0x11] → w.toNat / 2 ^ 8 % 2 ^ 8 ≠ 0 → wellFormedWord w = false) ∧
    (∀ w : Word, w.toNat / 2 ^ 24 ∈ [0x02, 0x04, 0x05, 0x06, 0x07, 0x10, 0x12] → w.toNat % 2 ^ 16 ≠ 0 →
      wellFormedWord w = false) ∧
    (∀ (s : State) (w : Word) (rest : List Input), launchable s = true → s.inputs = .command w :: rest →
      wellFormedWord w = false →
      step s = .next { s with inputs := rest, outputs := s.outputs ++ [invalidArgResponse] })

/-- The codes of the parser states, error kinds and response statuses (R80, R91, R92). -/
def Obligations.StateKindAndStatusCodes : Prop :=
  (ParserState.code .seekHeader = 0#3 ∧ ParserState.code .readLength = 1#3 ∧ ParserState.code .readType = 2#3 ∧
      ParserState.code .readBody = 3#3 ∧ ParserState.code .readChecksum = 4#3 ∧ ParserState.code .seekTrailer = 5#3) ∧
    (∀ p : ParserState, ParserState.ofCode p.code = some p) ∧
    ParserState.ofCode 6#3 = none ∧ ParserState.ofCode 7#3 = none ∧
    (ErrorKind.code .invalidArg = 1#8 ∧ ErrorKind.code .headerNotFoundYet = 2#8 ∧
      ErrorKind.code .invalidPacket = 3#8 ∧ ErrorKind.code .internalError = 4#8) ∧
    Status.code .ok = 0 ∧ Status.code .invalidArg = 1

/-! ## The step and reset -/

/-- A legal word at the command port: from a launch state of R230 the step is the command's own effect, once the port has
given the word up (R58, R85, R199). -/
def Obligations.StepRunsTheDecodedCommand : Prop :=
  ∀ (s : State) (w : Word) (rest : List Input) (i : Instr),
    launchable s = true → s.inputs = .command w :: rest → decode w = .ok i →
      step s = exec i { s with inputs := rest }

/-- From a launch state with nothing at the command port a step changes nothing: between commands the block holds its
state (R208). That the model takes such a step at all is its own choice (log entry 5). -/
def Obligations.BlockWithoutCommandHoldsItsState : Prop :=
  ∀ s : State, launchable s = true → s.inputs = [] → step s = .next s

/-- A word placed by withFetchWord in a launch state is what the very next step runs (log entry 5: a word comes from
outside the block). -/
def Obligations.PlacedWordIsRunNext : Prop :=
  ∀ (s : State) (w : Nat) (i : Instr), launchable s = true → decodeTableWord 32 w = some i →
    step (s.withFetchWord 32 w) = exec i s

/-- R220: hardware reset, from every state. Nothing is said of FCRC, and no byte of BUF has a defined value. That a reset
is taken also from a state with a STATE code of 0..5 that breaks R31, which R31, D31, U3 and U5 have a model refuse, is the
model's choice (log entry 7, DESIGN CHOICE). -/
def Obligations.HardwareResetSetsEveryRegister : Prop :=
  ∀ (s : State) (rest : List Input), s.inputs = .reset :: rest →
    ∃ t, step s = .next t ∧ t.opened = false ∧ t.cap = 0#16 ∧ t.state = 0#3 ∧ t.cur = 0#16 ∧ t.dl = 0#16 ∧
      t.pktAtt = false ∧ t.errAtt = false ∧ t.hcrc = 0xFFFFFFFF#32 ∧
      (∀ i, Memory.lookup t.buf i = Memory.unlisted) ∧
      t.maxCapacity = s.maxCapacity ∧ t.inputs = rest ∧ t.outputs = s.outputs

/-- R33: the state after reset, for every MAX_CAPACITY. Nothing is said of FCRC, which the rule leaves unspecified. -/
def Obligations.StateAfterResetHoldsTheTable : Prop :=
  (∀ m : Nat, (State.resetWith m).opened = false ∧ (State.resetWith m).cap = 0#16 ∧ (State.resetWith m).state = 0#3 ∧
    (State.resetWith m).cur = 0#16 ∧ (State.resetWith m).dl = 0#16 ∧ (State.resetWith m).hcrc = 0xFFFFFFFF#32 ∧
    (State.resetWith m).pktAtt = false ∧ (State.resetWith m).errAtt = false ∧
    ∀ i, Memory.lookup (State.resetWith m).buf i = Memory.unlisted) ∧
  ∃ m, State.reset = State.resetWith m

/-! ## The Checksum Engine -/

/-- R112: crc_update folds the bytes first to last, splits over concatenation, and is order-sensitive. -/
def Obligations.CrcUpdateSplitsOverConcatenation : Prop :=
  (∀ reg, crcUpdate reg [] = reg) ∧
    (∀ reg b t, crcUpdate reg ([b] ++ t) = crcUpdate (crcStep reg b) t) ∧
    (∀ reg s t, crcUpdate (crcUpdate reg s) t = crcUpdate reg (s ++ t)) ∧
    ∃ reg s t, crcUpdate (crcUpdate reg s) t ≠ crcUpdate (crcUpdate reg t) s

/-- The bit loop of R111 is a table look-up on the low byte: the "256-entry table" the rule admits. -/
def Obligations.CrcStepIsATableLookup : Prop :=
  ∀ (reg : Word) (b : Byte),
    crcStep reg b = (reg >>> 8) ^^^ crcStep 0#32 ((reg ^^^ b.setWidth 32).setWidth 8)

/-- R118: the reference vector. -/
def Obligations.CrcOfTheReferenceBytes : Prop :=
  crc32 [0x48#8, 0x65#8, 0x6C#8, 0x6C#8, 0x6F#8, 0x2C#8, 0x20#8, 0x57#8, 0x6F#8, 0x72#8, 0x6C#8, 0x64#8, 0x21#8] =
    0xEC4AC3D0#32

/-- Byte strings of equal length that differ in one byte have different checksums (R152 rests on it; G4). -/
def Obligations.OneChangedByteChangesTheCrc : Prop :=
  ∀ (p q : List Byte) (b c : Byte), b ≠ c → crc32 (p ++ b :: q) ≠ crc32 (p ++ c :: q)

/-- R115: CRC_CREATE, in every state. -/
def Obligations.CrcCreateStartsAfresh : Prop :=
  (∀ w : Word, decode w = .ok .crcCreate ↔ w = 0x10000000#32) ∧
    ∀ s : State, exec .crcCreate s = .next { s with hcrc := 0xFFFFFFFF#32, outputs := s.outputs ++ [okResponse] }

/-- R116: CRC_UPDATE, in every state and for every byte, with the rule's two values. -/
def Obligations.CrcUpdateConsumesOneByte : Prop :=
  (∀ (w : Word) (b : Byte), decode w = .ok (.crcUpdate b) ↔ w = 0x11000000#32 ||| b.setWidth 32) ∧
    (∀ (b : Byte) (s : State),
      exec (.crcUpdate b) s =
        .next { s with hcrc := crcStep s.hcrc b, outputs := s.outputs ++ [okResponse] }) ∧
    crcStep 0xFFFFFFFF#32 0x00#8 = 0x2DFD1072#32 ∧ crcStep 0xFFFFFFFF#32 0x48#8 = 0x55FAD9D0#32 ∧
    ∀ m, (State.resetWith m).hcrc = 0xFFFFFFFF#32

/-- R117: CRC_FINAL, in every state: the response carries HCRC ^ 0xFFFFFFFF and nothing else changes, so that a second
one gives the same value. -/
def Obligations.CrcFinalReadsTheChecksum : Prop :=
  (∀ w : Word, decode w = .ok .crcFinal ↔ w = 0x12000000#32) ∧
    (∀ s : State,
      exec .crcFinal s = .next { s with outputs := s.outputs ++ [.response ⟨.ok, s.hcrc ^^^ 0xFFFFFFFF#32⟩] }) ∧
    (∀ s t : State, exec .crcFinal s = .next t →
      exec .crcFinal t = .next { t with outputs := t.outputs ++ [.response ⟨.ok, s.hcrc ^^^ 0xFFFFFFFF#32⟩] }) ∧
    (0xFFFFFFFF#32 ^^^ 0xFFFFFFFF#32 = 0x00000000#32) ∧
    crcUpdate 0xFFFFFFFF#32
        [0x48#8, 0x65#8, 0x6C#8, 0x6C#8, 0x6F#8, 0x2C#8, 0x20#8, 0x57#8, 0x6F#8, 0x72#8, 0x6C#8, 0x64#8, 0x21#8] =
      0x13B53C2F#32 ∧
    0x13B53C2F#32 ^^^ 0xFFFFFFFF#32 = 0xEC4AC3D0#32

/-- R119: the CRC_UPDATE words of a byte string, at the command port of a launch state, run to the register updated over
the whole string; and that is what CRC_UPDATES writes. -/
def Obligations.CrcUpdatesRunOverAByteString : Prop :=
  (∀ (bytes : List Byte) (s : State) (rest : List Input), launchable s = true →
    s.inputs = bytes.map (fun b => .command (encode (.crcUpdate b))) ++ rest →
      Sys2Proof.core.run bytes.length s =
        .next { s with
          inputs := rest
          hcrc := crcUpdate s.hcrc bytes
          outputs := s.outputs ++ List.replicate bytes.length okResponse }) ∧
    ∀ bytes : List Byte, Asm.expand .crcUpdates [.text bytes] = .ok (bytes.map .crcUpdate)

/-! ## The frame wire format -/

/-- The valid frames of R78 are exactly the byte strings laid out as R70 says. -/
def Obligations.ValidFramesAreTheBuiltOnes : Prop :=
  ∀ (cap : Half) (f : List Byte),
    Frame.valid cap f = true ↔
      ∃ t0 t1 t2 body, body.length + 13 ≤ cap.toNat ∧ f = Frame.build t0 t1 t2 body

/-! ## PUSH, case by case -/

/-- R131: SeekHeader with CUR = 0. -/
def Obligations.PushFirstHeaderByte : Prop :=
  ∀ (b : Byte) (s : State), s.opened = true → consistent s = true → s.state = 0#3 → s.cur = 0#16 →
    (b = 0x2F#8 → exec (.push b) s =
      .next { s with buf := Memory.write s.buf 0 b, cur := 1#16, outputs := s.outputs ++ [okResponse] }) ∧
    (b ≠ 0x2F#8 → exec (.push b) s = .next { s with outputs := s.outputs ++ [okResponse] }) ∧
    s.dl = 0#16

/-- R132: SeekHeader with CUR = 1 and b = 0x2A. -/
def Obligations.PushCompletesTheHeader : Prop :=
  ∀ s : State, s.opened = true → consistent s = true → s.state = 0#3 → s.cur = 1#16 →
    ∃ t, exec (.push 0x2A#8) s = .next t ∧
      t = { s with buf := Memory.write s.buf 1 0x2A#8, cur := 2#16, state := 1#3,
                   outputs := s.outputs ++ [okResponse] } ∧
      bufTake t 2 = [0x2F#8, 0x2A#8]

/-- R133: SeekHeader with CUR = 1 and b other than 0x2A: the diagnostic, the recovery, and the byte re-examined as a
first header byte; and the run of bytes 0x2F of its corner case. -/
def Obligations.PushMismatchedSecondByte : Prop :=
  (∀ (b : Byte) (s : State), s.opened = true → consistent s = true → s.state = 0#3 → s.cur = 1#16 → b ≠ 0x2A#8 →
    (b ≠ 0x2F#8 → ∃ t, exec (.push b) s = .next t ∧
      RecoveredTo s t (ifAttached s.errAtt headerNotFoundEvent ++ [okResponse])) ∧
    (b = 0x2F#8 → ∃ t, exec (.push b) s = .next t ∧
      t.state = 0#3 ∧ t.cur = 1#16 ∧ t.dl = 0#16 ∧
      (∀ i, Memory.lookup t.buf i = if i = 0 then some 0x2F#8 else Memory.unlisted) ∧
      SameOutsideParser s t ∧
      t.outputs = s.outputs ++ (ifAttached s.errAtt headerNotFoundEvent ++ [okResponse]))) ∧
  ∀ (k : Nat) (s : State), s.opened = true → consistent s = true → s.state = 0#3 → s.cur = 0#16 → 1 ≤ k →
    ∃ t, pushAll (List.replicate k 0x2F#8 ++ [0x2A#8]) s = .next t ∧ t.state = 1#3 ∧ t.cur = 2#16 ∧
      (t.outputs.drop s.outputs.length).filter Output.isEvent =
        if s.errAtt then List.replicate (k - 1) headerNotFoundEvent else []

/-- R135: ReadLength, the first length byte. -/
def Obligations.PushFirstLengthByte : Prop :=
  ∀ (b : Byte) (s : State), s.opened = true → consistent s = true → s.state = 1#3 → s.cur = 2#16 →
    exec (.push b) s =
      .next { s with buf := Memory.write s.buf 2 b, cur := 3#16, outputs := s.outputs ++ [okResponse] }

/-- R136: ReadLength, the second length byte: L = 13 + le16 is accepted up to CAP and rejected above it; and the rule's
remark that 16-bit arithmetic would accept and reject the same lengths. -/
def Obligations.PushSecondLengthByte : Prop :=
  (∀ (b : Byte) (s : State) (L : Nat), s.opened = true → consistent s = true → s.state = 1#3 → s.cur = 3#16 →
    L = 13 + ((bufRead s 2).toNat + 256 * b.toNat) →
    (L ≤ s.cap.toNat → exec (.push b) s =
      .next { s with buf := Memory.write s.buf 3 b, cur := 4#16, dl := BitVec.ofNat 16 L, state := 2#3,
                     outputs := s.outputs ++ [okResponse] }) ∧
    (s.cap.toNat < L → ∃ t, exec (.push b) s = .next t ∧
      RecoveredTo s t (ifAttached s.errAtt
        (.error ⟨.invalidPacket, ⟨1#3, 4#16, BitVec.ofNat 17 L, bufTake s 3 ++ [b]⟩⟩) ++ [okResponse]))) ∧
  ∀ n cap : Nat, n ≤ 65535 → cap ≤ 65535 →
    (((13 + n) % 2 ^ 16 < 13 ∨ cap < (13 + n) % 2 ^ 16) ↔ cap < 13 + n)

/-- R137: ReadType. -/
def Obligations.PushTypeByte : Prop :=
  ∀ (b : Byte) (s : State), s.opened = true → consistent s = true → s.state = 2#3 →
    (s.cur = 4#16 ∨ s.cur = 5#16 → exec (.push b) s =
      .next { s with buf := Memory.write s.buf s.cur.toNat b, cur := s.cur + 1#16,
                     outputs := s.outputs ++ [okResponse] }) ∧
    (s.cur = 6#16 → s.dl = 13#16 → exec (.push b) s =
      .next { s with buf := Memory.write s.buf 6 b, cur := 7#16, state := 4#3,
                     outputs := s.outputs ++ [okResponse] }) ∧
    (s.cur = 6#16 → s.dl ≠ 13#16 → exec (.push b) s =
      .next { s with buf := Memory.write s.buf 6 b, cur := 7#16, state := 3#3,
                     outputs := s.outputs ++ [okResponse] })

/-- R138: ReadBody, byte by byte, and as a whole: from CUR = 7 it takes exactly DL - 13 bytes, at least one. -/
def Obligations.PushBodyByte : Prop :=
  (∀ (b : Byte) (s : State), s.opened = true → consistent s = true → s.state = 3#3 →
    (s.cur.toNat + 7 < s.dl.toNat → exec (.push b) s =
      .next { s with buf := Memory.write s.buf s.cur.toNat b, cur := s.cur + 1#16,
                     outputs := s.outputs ++ [okResponse] }) ∧
    (s.cur.toNat + 7 = s.dl.toNat → exec (.push b) s =
      .next { s with buf := Memory.write s.buf s.cur.toNat b, cur := s.cur + 1#16, state := 4#3,
                     outputs := s.outputs ++ [okResponse] })) ∧
  ∀ (bytes : List Byte) (s : State), s.opened = true → consistent s = true → s.state = 3#3 → s.cur = 7#16 →
    14 ≤ s.dl.toNat ∧
    (bytes.length + 13 < s.dl.toNat → ∃ t, pushAll bytes s = .next t ∧ t.state = 3#3) ∧
    (bytes.length + 13 = s.dl.toNat → ∃ t, pushAll bytes s = .next t ∧ t.state = 4#3 ∧
      t.cur.toNat + 6 = s.dl.toNat)

/-- ReadChecksum before the fourth checksum byte: the byte is only stored (R134, R139). -/
def Obligations.PushEarlierChecksumByte : Prop :=
  ∀ (b : Byte) (s : State), s.opened = true → consistent s = true → s.state = 4#3 →
    s.cur.toNat + 3 < s.dl.toNat → exec (.push b) s =
      .next { s with buf := Memory.write s.buf s.cur.toNat b, cur := s.cur + 1#16,
                     outputs := s.outputs ++ [okResponse] }

/-- R140 with R139's expected value: ReadChecksum at the fourth checksum byte. The received value is little-endian, the
checksum domain is BUF[0..DL-6) and the trailer literal. That FCRC then holds the register of R139 before its finalize is
the model's choice (log entry 4): D18 also allows a fold byte by byte, which only FCRC itself would show. -/
def Obligations.PushLastChecksumByte : Prop :=
  (∀ (b : Byte) (s : State), s.opened = true → consistent s = true → s.state = 4#3 →
    s.cur.toNat + 3 = s.dl.toNat →
    (le32 (bufRead s (s.dl.toNat - 6)) (bufRead s (s.dl.toNat - 5)) (bufRead s (s.dl.toNat - 4)) b =
        crc32 (bufTake s (s.dl.toNat - 6) ++ [0x2A#8, 0x2F#8]) →
      exec (.push b) s =
        .next { s with buf := Memory.write s.buf s.cur.toNat b, cur := s.cur + 1#16, state := 5#3,
                       fcrc := crcUpdate 0xFFFFFFFF#32 (bufTake s (s.dl.toNat - 6) ++ [0x2A#8, 0x2F#8]),
                       outputs := s.outputs ++ [okResponse] }) ∧
    (le32 (bufRead s (s.dl.toNat - 6)) (bufRead s (s.dl.toNat - 5)) (bufRead s (s.dl.toNat - 4)) b ≠
        crc32 (bufTake s (s.dl.toNat - 6) ++ [0x2A#8, 0x2F#8]) →
      ∃ t, exec (.push b) s = .next t ∧
        RecoveredTo s t (ifAttached s.errAtt (.error ⟨.invalidPacket, ⟨4#3, s.dl - 2#16, s.dl.setWidth 17,
          bufTake s (s.dl.toNat - 3) ++ [b]⟩⟩) ++ [okResponse]))) ∧
  crc32 [0x2F#8, 0x2A#8, 0x00#8, 0x00#8, 0x41#8, 0x42#8, 0x43#8, 0x2A#8, 0x2F#8] = 0x311F04E5#32 ∧
  le32 0xE5#8 0x04#8 0x1F#8 0x31#8 = 0x311F04E5#32 ∧ le32 0x31#8 0x1F#8 0x04#8 0xE5#8 ≠ 0x311F04E5#32

/-- R141: SeekTrailer, trailer[0]. -/
def Obligations.PushFirstTrailerByte : Prop :=
  ∀ (b : Byte) (s : State), s.opened = true → consistent s = true → s.state = 5#3 →
    s.cur.toNat + 2 = s.dl.toNat →
    (b = 0x2A#8 → exec (.push b) s =
      .next { s with buf := Memory.write s.buf s.cur.toNat b, cur := s.cur + 1#16,
                     outputs := s.outputs ++ [okResponse] }) ∧
    (b ≠ 0x2A#8 → ∃ t, exec (.push b) s = .next t ∧
      RecoveredTo s t (ifAttached s.errAtt (.error ⟨.invalidPacket, ⟨5#3, s.dl - 1#16, s.dl.setWidth 17,
        bufTake s (s.dl.toNat - 2) ++ [b]⟩⟩) ++ [okResponse]))

/-- R142: SeekTrailer, trailer[1]: the packet is delivered to the packet sink if one is attached, or the frame is
rejected; either way the parser recovers. -/
def Obligations.PushSecondTrailerByte : Prop :=
  ∀ (b : Byte) (s : State), s.opened = true → consistent s = true → s.state = 5#3 →
    s.cur.toNat + 1 = s.dl.toNat →
    (b = 0x2F#8 → ∃ t, exec (.push b) s = .next t ∧
      RecoveredTo s t (ifAttached s.pktAtt (.packet ⟨s.dl, bufTake s (s.dl.toNat - 1) ++ [b]⟩) ++ [okResponse])) ∧
    (b ≠ 0x2F#8 → ∃ t, exec (.push b) s = .next t ∧
      RecoveredTo s t (ifAttached s.errAtt (.error ⟨.invalidPacket, ⟨5#3, s.dl, s.dl.setWidth 17,
        bufTake s (s.dl.toNat - 1) ++ [b]⟩⟩) ++ [okResponse]))

/-- R143: STATE = 6 or 7, in every such state of an open block, and that no state of the invariant has these codes. A
byte of the context that BUF leaves unspecified is a free value (U6, log entry 3). -/
def Obligations.PushInAnInvalidState : Prop :=
  (∀ (b : Byte) (s : State), s.opened = true → (s.state = 6#3 ∨ s.state = 7#3) →
    ∃ t, exec (.push b) s = .next t ∧
      RecoveredTo s t (ifAttached s.errAtt (.error ⟨.internalError, ⟨s.state, s.cur, s.dl.setWidth 17,
        bufTake s (min s.cur.toNat s.cap.toNat)⟩⟩) ++ [okResponse])) ∧
  ∀ s : State, s.Inv → s.state ≠ 6#3 ∧ s.state ≠ 7#3

/-! ## PUSH, as a whole -/

/-- What one PUSH does to BUF (R51, R52, R60): it stores its byte at the cursor and every other byte reads as before; or
the byte is dropped and BUF is as before; or the frame has ended and no byte has a defined value but the re-examined
header byte. -/
def Obligations.PushStoresOnlyAtTheCursor : Prop :=
  ∀ (b : Byte) (s t : State), s.opened = true → consistent s = true → exec (.push b) s = .next t →
    (t.cur = s.cur + 1#16 ∧ bufRead t s.cur.toNat = b ∧ (∀ i, i ≠ s.cur.toNat → bufRead t i = bufRead s i) ∧
      ∀ i, Memory.lookup t.buf i = if i = s.cur.toNat then some b else Memory.lookup s.buf i) ∨
    (s.state = 0#3 ∧ s.cur = 0#16 ∧ b ≠ 0x2F#8 ∧ t.cur = s.cur ∧ t.buf = s.buf ∧ ∀ i, bufRead t i = bufRead s i) ∨
    (t.state = 0#3 ∧ t.dl = 0#16 ∧ ((t.cur = 0#16 ∧ ∀ i, Memory.lookup t.buf i = Memory.unlisted) ∨
      (t.cur = 1#16 ∧ b = 0x2F#8 ∧ s.state = 0#3 ∧ s.cur = 1#16 ∧
        ∀ i, Memory.lookup t.buf i = if i = 0 then some b else Memory.unlisted)))

/-- A PUSH that ends a frame, by a delivery or any diagnostic, leaves an empty SeekHeader, or CUR = 1 by the
re-examination of R133 (R144, R145, R200). -/
def Obligations.EveryEventEndsTheFrame : Prop :=
  ∀ (i : Instr) (s t : State) (e : Output), exec i s = .next t → e.isEvent = true →
    t.outputs = s.outputs ++ [e, okResponse] →
    t.state = 0#3 ∧ t.dl = 0#16 ∧ (t.cur = 0#16 ∨ (t.cur = 1#16 ∧ ∃ ctx, e = .error ⟨.headerNotFoundYet, ctx⟩))

/-- The causes of the three diagnostics, each of them a PUSH, and that no event is of kind InvalidArg (R192, R193, R194).
The context's state is the one the byte arrived in; its cursor and declared length are those of R195, with accept taken
before the check in the states that store their byte. -/
def Obligations.DiagnosticsHaveOnlyTheirCauses : Prop :=
  ∀ (i : Instr) (s t : State) (e : ErrorEvent), exec i s = .next t →
    t.outputs = s.outputs ++ [.error e, okResponse] →
    ∃ b, i = .push b ∧ s.opened = true ∧ s.errAtt = true ∧ e.ctx.state = s.state ∧ e.kind ≠ .invalidArg ∧
      (e.kind = .headerNotFoundYet →
        s.state = 0#3 ∧ s.cur = 1#16 ∧ b ≠ 0x2A#8 ∧ e.ctx.cursor = 1#16 ∧ e.ctx.declaredLength = 0#17) ∧
      (e.kind = .invalidPacket →
        (s.state = 1#3 ∧ s.cur = 3#16 ∧ s.cap.toNat < (declaredLength (accept b s)).toNat ∧
          e.ctx.cursor = 4#16 ∧ e.ctx.declaredLength = declaredLength (accept b s)) ∨
        (s.state = 4#3 ∧ s.cur.toNat + 3 = s.dl.toNat ∧
          receivedChecksum (accept b s) ≠ crc32 (checksumDomain (accept b s)) ∧
          e.ctx.cursor = s.dl - 2#16 ∧ e.ctx.declaredLength = s.dl.setWidth 17) ∨
        (s.state = 5#3 ∧ s.cur.toNat + 2 = s.dl.toNat ∧ b ≠ 0x2A#8 ∧
          e.ctx.cursor = s.dl - 1#16 ∧ e.ctx.declaredLength = s.dl.setWidth 17) ∨
        (s.state = 5#3 ∧ s.cur.toNat + 1 = s.dl.toNat ∧ b ≠ 0x2F#8 ∧
          e.ctx.cursor = s.dl ∧ e.ctx.declaredLength = s.dl.setWidth 17)) ∧
      (e.kind = .internalError → (s.state = 6#3 ∨ s.state = 7#3) ∧
        e.ctx.cursor = s.cur ∧ e.ctx.declaredLength = s.dl.setWidth 17)

/-- While STATE is not SeekHeader a byte is only stored, except at the second length byte, the fourth checksum byte and
the trailer: two bytes there lead to states that differ in that stored byte alone (R73, R147). -/
def Obligations.NoByteIsExaminedInsideAFrame : Prop :=
  ∀ (b c : Byte) (s : State), s.opened = true → consistent s = true →
    ((s.state = 1#3 ∧ s.cur = 2#16) ∨ s.state = 2#3 ∨ s.state = 3#3 ∨
      (s.state = 4#3 ∧ s.cur.toNat + 3 < s.dl.toNat)) →
    ∃ t u, exec (.push b) s = .next t ∧ exec (.push c) s = .next u ∧
      t.state = u.state ∧ t.cur = u.cur ∧ t.dl = u.dl ∧ SameOutsideParser t u ∧ t.outputs = u.outputs ∧
      t.outputs = s.outputs ++ [okResponse] ∧ t.state ≠ 0#3 ∧
      ∀ i, i ≠ s.cur.toNat → Memory.lookup t.buf i = Memory.lookup u.buf i

/-- A PUSH on an open block always answers OK and leaves a state that takes the next byte (R146); from STATE = 6 or 7 too,
if CAP is in the bounds of R31. -/
def Obligations.PushOnAnOpenBlockNeverStalls : Prop :=
  ∀ (b : Byte) (s : State), s.opened = true →
    (consistent s = true → ∃ t, exec (.push b) s = .next t ∧ t.opened = true ∧ consistent t = true ∧
      t.outputs.getLast? = some okResponse) ∧
    (s.state = 6#3 ∨ s.state = 7#3 → ∃ t, exec (.push b) s = .next t ∧ t.opened = true ∧ t.state = 0#3 ∧
      t.outputs.getLast? = some okResponse ∧
      (13 ≤ s.cap.toNat ∧ s.cap.toNat ≤ s.maxCapacity → consistent t = true))

/-- What exec, a command's own effect, refuses (R230, D31, U5): exactly a PUSH on an open block whose STATE code is 0..5
and which breaks the invariant of R31. With STATE = 6 or 7 it runs R143 (U6). That exec refuses nothing else (a PUSH on a
closed block and the nine other commands have their effect in every state) is the model's choice, log entry 7's DESIGN
CHOICE: the step refuses those launch states before it comes to exec (InconsistentLaunchStatesAreRefused). -/
def Obligations.OnlyAnInconsistentPushIsRefused : Prop :=
  (∀ (b : Byte) (s : State), s.opened = true → s.state.toNat ≤ 5 → consistent s = false →
    exec (.push b) s = .refused .inconsistentLaunchState) ∧
  ∀ (i : Instr) (s : State) (r : Refusal), exec i s = .refused r →
    r = .inconsistentLaunchState ∧ (∃ b, i = .push b) ∧ s.opened = true ∧ s.state.toNat ≤ 5 ∧ consistent s = false

/-! ## Lifecycle and sinks -/

/-- R170: OPEN, in every state. Nothing is said of FCRC and no byte of BUF has a defined value. -/
def Obligations.OpenCreatesTheParser : Prop :=
  (∀ (w : Word) (c : Half), decode w = .ok (.openWith c) ↔ w = 0x01000000#32 ||| c.setWidth 32) ∧
    ∀ (cap : Half) (s : State),
      (13 ≤ cap.toNat ∧ cap.toNat ≤ s.maxCapacity → ∃ t, exec (.openWith cap) s = .next t ∧
        t.opened = true ∧ t.cap = cap ∧ EmptyParser t ∧
        t.pktAtt = s.pktAtt ∧ t.errAtt = s.errAtt ∧ t.hcrc = s.hcrc ∧ t.maxCapacity = s.maxCapacity ∧
        t.inputs = s.inputs ∧ t.outputs = s.outputs ++ [okResponse]) ∧
      (cap.toNat < 13 ∨ s.maxCapacity < cap.toNat →
        exec (.openWith cap) s = .next { s with outputs := s.outputs ++ [invalidArgResponse] })

/-- R171: CLOSE, in every state; and the PUSHes after it. -/
def Obligations.CloseDestroysTheParser : Prop :=
  (∀ w : Word, decode w = .ok .close ↔ w = 0x02000000#32) ∧
    ∀ s : State,
      (s.opened = true → ∃ t, exec .close s = .next t ∧
        t.opened = false ∧ t.cap = 0#16 ∧ EmptyParser t ∧
        t.pktAtt = s.pktAtt ∧ t.errAtt = s.errAtt ∧ t.hcrc = s.hcrc ∧ t.maxCapacity = s.maxCapacity ∧
        t.inputs = s.inputs ∧ t.outputs = s.outputs ++ [okResponse]) ∧
      (s.opened = false → exec .close s = .next { s with outputs := s.outputs ++ [invalidArgResponse] }) ∧
      (s.opened = false → ∀ b, exec (.push b) s = .next { s with outputs := s.outputs ++ [invalidArgResponse] })

/-- R172 and R174: PKT_ATTACH and ERR_ATTACH, in every state, open or closed. -/
def Obligations.AttachSetsOneFlag : Prop :=
  (∀ w : Word, decode w = .ok .pktAttach ↔ w = 0x04000000#32) ∧
    (∀ w : Word, decode w = .ok .errAttach ↔ w = 0x06000000#32) ∧
    (∀ s : State, exec .pktAttach s = .next { s with pktAtt := true, outputs := s.outputs ++ [okResponse] }) ∧
    ∀ s : State, exec .errAttach s = .next { s with errAtt := true, outputs := s.outputs ++ [okResponse] }

/-- R173 and R175: PKT_DETACH and ERR_DETACH, in every state; and a detached sink gets nothing while every register
moves as it would with the sink attached. -/
def Obligations.DetachSilencesOneSink : Prop :=
  (∀ w : Word, decode w = .ok .pktDetach ↔ w = 0x05000000#32) ∧
    (∀ w : Word, decode w = .ok .errDetach ↔ w = 0x07000000#32) ∧
    (∀ s : State, exec .pktDetach s = .next { s with pktAtt := false, outputs := s.outputs ++ [okResponse] }) ∧
    (∀ s : State, exec .errDetach s = .next { s with errAtt := false, outputs := s.outputs ++ [okResponse] }) ∧
    (∀ (b : Byte) (s t : State), s.pktAtt = false → exec (.push b) s = .next t →
      ∀ p, .packet p ∈ t.outputs → .packet p ∈ s.outputs) ∧
    (∀ (b : Byte) (s t : State), s.errAtt = false → exec (.push b) s = .next t →
      ∀ e, .error e ∈ t.outputs → .error e ∈ s.outputs) ∧
    ∀ (b : Byte) (s t : State) (p e : Bool), exec (.push b) s = .next t →
      ∃ u, exec (.push b) { s with pktAtt := p, errAtt := e } = .next u ∧
        u = { t with pktAtt := p, errAtt := e, outputs := u.outputs }

/-- R191: the four causes of INVALID_ARG, and that it changes no register and produces no event. -/
def Obligations.InvalidArgHasExactlyFourCauses : Prop :=
  ∀ (s t : State) (w : Word) (rest : List Input), s.inputs = .command w :: rest → step s = .next t →
    (t.outputs.getLast? = some invalidArgResponse ↔
      wellFormedWord w = false ∨
      ((∃ b, decode w = .ok (.push b)) ∧ s.opened = false) ∨
      (decode w = .ok .close ∧ s.opened = false) ∨
      (∃ cap, decode w = .ok (.openWith cap) ∧ (cap.toNat < 13 ∨ s.maxCapacity < cap.toNat))) ∧
    (t.outputs.getLast? = some invalidArgResponse →
      t = { s with inputs := rest, outputs := s.outputs ++ [invalidArgResponse] }) ∧
    ∀ ctx, .error ⟨.invalidArg, ctx⟩ ∈ t.outputs → .error ⟨.invalidArg, ctx⟩ ∈ s.outputs

/-! ## Whole-machine rules -/

/-- Each register changes only by the commands that R20 says write it; no command changes the parameter or takes from
the command port. -/
def Obligations.RegistersChangeOnlyByTheirWriters : Prop :=
  ∀ (i : Instr) (s t : State), exec i s = .next t →
    (t.opened ≠ s.opened ∨ t.cap ≠ s.cap → (∃ c, i = .openWith c) ∨ i = .close) ∧
    (t.state ≠ s.state ∨ t.cur ≠ s.cur ∨ t.dl ≠ s.dl → (∃ b, i = .push b) ∨ (∃ c, i = .openWith c) ∨ i = .close) ∧
    (∀ j b, Memory.lookup t.buf j = some b → Memory.lookup s.buf j = some b ∨ ∃ c, i = .push c) ∧
    ((∀ b, i ≠ .push b) → (∀ c, i ≠ .openWith c) → i ≠ .close →
      t.fcrc = s.fcrc ∧ ∀ j, bufRead t j = bufRead s j) ∧
    (t.hcrc ≠ s.hcrc → i = .crcCreate ∨ ∃ b, i = .crcUpdate b) ∧
    (t.pktAtt ≠ s.pktAtt → i = .pktAttach ∨ i = .pktDetach) ∧
    (t.errAtt ≠ s.errAtt → i = .errAttach ∨ i = .errDetach) ∧
    t.maxCapacity = s.maxCapacity ∧ t.inputs = s.inputs

/-- R148: at most one event per command, none but from a PUSH on an open block with a legal word, delivered before the
one response. -/
def Obligations.AtMostOneEventPerCommand : Prop :=
  ∀ (s t : State) (w : Word) (rest : List Input), s.inputs = .command w :: rest → step s = .next t →
    ∃ (events : List Output) (r : Response), t.outputs = s.outputs ++ events ++ [.response r] ∧
      events.length ≤ 1 ∧ (∀ e ∈ events, e.isEvent = true) ∧
      (events ≠ [] → ∃ b, decode w = .ok (.push b) ∧ s.opened = true)

/-- The host accumulator and the parser do not affect each other, and FCRC affects neither them nor anything put out
(R29, R30, R120). -/
def Obligations.AccumulatorsAreIndependent : Prop :=
  (∀ (i : Instr) (s t : State) (h : Word), i ≠ .crcFinal → i ≠ .crcCreate → (∀ b, i ≠ .crcUpdate b) →
    exec i s = .next t → t.hcrc = s.hcrc ∧ exec i { s with hcrc := h } = .next { t with hcrc := h }) ∧
  (∀ (i : Instr) (s t : State), (i = .crcFinal ∨ i = .crcCreate ∨ ∃ b, i = .crcUpdate b) → exec i s = .next t →
    t = { s with hcrc := t.hcrc, outputs := t.outputs }) ∧
  ∀ (i : Instr) (s t : State) (v : Word), exec i s = .next t →
    ∃ u, exec i { s with fcrc := v } = .next u ∧ u = { t with fcrc := u.fcrc }

/-- The commands that R59 says may be issued twice: the second leaves every register as the first left it. A second
CLOSE answers INVALID_ARG; PUSH and CRC_UPDATE are not among them. -/
def Obligations.RepeatedCommandsChangeNoRegister : Prop :=
  (∀ (i : Instr) (s t : State),
    (i = .crcFinal ∨ i = .crcCreate ∨ i = .pktAttach ∨ i = .pktDetach ∨ i = .errAttach ∨ i = .errDetach ∨
      ∃ c, i = .openWith c) →
    exec i s = .next t → ∃ u, exec i t = .next u ∧ SameRegisters t u ∧ u.outputs.getLast? = t.outputs.getLast?) ∧
  (∀ s t : State, exec .close s = .next t →
    exec .close t = .next { t with outputs := t.outputs ++ [invalidArgResponse] }) ∧
  (∃ (b : Byte) (s t u : State), exec (.push b) s = .next t ∧ exec (.push b) t = .next u ∧ ¬ SameRegisters t u) ∧
  ∃ (b : Byte) (s t u : State), exec (.crcUpdate b) s = .next t ∧ exec (.crcUpdate b) t = .next u ∧ t.hcrc ≠ u.hcrc

/-- The invariant of the reachable states holds after reset, for every legal MAX_CAPACITY (R31, R33). -/
def Obligations.ResetMeetsTheInvariant : Prop :=
  (∀ m : Nat, 13 ≤ m → m ≤ 65535 → (State.resetWith m).Inv) ∧ State.reset.Inv

/-- Every step keeps the invariant of the reachable states: R31, the canonical form of BUF, no defined byte at or beyond
CUR, and a legal MAX_CAPACITY (R31, R60, R145). -/
def Obligations.StepKeepsTheInvariant : Prop :=
  ∀ s t : State, s.Inv → step s = .next t → t.Inv

/-- From a state that meets the invariant a step always answers a next state: nothing stalls or stops the block (R146,
R200). -/
def Obligations.InvariantStatesAlwaysStep : Prop :=
  ∀ s : State, s.Inv → ∃ t, step s = .next t

/-! ## Streams of bytes -/

/-- R150: a valid frame pushed from an empty SeekHeader is delivered exactly once, at its last byte, with no diagnostic;
with a stray 0x2F held before it, one HeaderNotFoundYet comes first. -/
def Obligations.ValidFrameIsDeliveredExactly : Prop :=
  ∀ (f : List Byte) (s : State), s.opened = true → consistent s = true → s.state = 0#3 →
    Frame.valid s.cap f = true →
    (s.cur = 0#16 → ∃ t, pushAll f s = .next t ∧
      RecoveredTo s t (List.replicate (f.length - 1) okResponse ++
        ifAttached s.pktAtt (.packet ⟨BitVec.ofNat 16 f.length, f⟩) ++ [okResponse])) ∧
    (s.cur = 1#16 → ∃ t, pushAll f s = .next t ∧
      RecoveredTo s t (ifAttached s.errAtt headerNotFoundEvent ++ List.replicate (f.length - 1) okResponse ++
        ifAttached s.pktAtt (.packet ⟨BitVec.ofNat 16 f.length, f⟩) ++ [okResponse]))

/-- Noise without an adjacent 0x2F 0x2A before a valid frame: the frame is delivered exactly once, after one
HeaderNotFoundYet for each 0x2F of the noise that no 0x2A follows, and there is no other event (R153). -/
def Obligations.FrameIsFoundAfterNoise : Prop :=
  ∀ (g f : List Byte) (s : State), s.opened = true → consistent s = true → s.state = 0#3 → s.cur = 0#16 →
    noHeaderIn g = true → Frame.valid s.cap f = true →
    ∃ t, pushAll (g ++ f) s = .next t ∧ EmptyParser t ∧ SameOutsideParser s t ∧
      (t.outputs.drop s.outputs.length).filter Output.isEvent =
        (if s.errAtt then List.replicate (strayCount 0x2F#8 g) headerNotFoundEvent else []) ++
          ifAttached s.pktAtt (.packet ⟨BitVec.ofNat 16 f.length, f⟩)

/-- A valid frame with one type or body byte changed is rejected at its last checksum byte and nothing of it is
delivered (R152, first case). -/
def Obligations.ChangedTypeOrBodyByteIsRejected : Prop :=
  ∀ (f : List Byte) (k : Nat) (c : Byte) (s : State), s.opened = true → consistent s = true → s.state = 0#3 →
    s.cur = 0#16 → Frame.valid s.cap f = true → 4 ≤ k → k + 6 < f.length → f.getD k 0#8 ≠ c →
    ∃ t, pushAll ((f.set k c).take (f.length - 2)) s = .next t ∧
      RecoveredTo s t (List.replicate (f.length - 3) okResponse ++
        ifAttached s.errAtt (.error ⟨.invalidPacket, ⟨4#3, BitVec.ofNat 16 (f.length - 2),
          BitVec.ofNat 17 f.length, (f.set k c).take (f.length - 2)⟩⟩) ++ [okResponse])

/-- A frame one byte longer than CAP is rejected at its fourth byte (R151). -/
def Obligations.FrameOverCapacityIsRejectedAtItsLength : Prop :=
  ∀ (t0 t1 t2 : Byte) (body : List Byte) (s : State), s.opened = true → consistent s = true → s.state = 0#3 →
    s.cur = 0#16 → body.length + 13 = s.cap.toNat + 1 →
    ∃ t, pushAll ((Frame.build t0 t1 t2 body).take 4) s = .next t ∧
      RecoveredTo s t (List.replicate 3 okResponse ++
        ifAttached s.errAtt (.error ⟨.invalidPacket, ⟨1#3, 4#16, BitVec.ofNat 17 (s.cap.toNat + 1),
          (Frame.build t0 t1 t2 body).take 4⟩⟩) ++ [okResponse])

/-! ## The assembler -/

/-- "The assembler never emits the illegal word" (R95). -/
def Obligations.AssembledWordsAreWellFormed : Prop :=
  ∀ (lines : List (List Char)) (ws : List Word), Asm.assemble lines = .ok ws → ∀ w ∈ ws, wellFormedWord w = true

/-- R96: what each pseudo-instruction expands to. That FRAME is assembled for a body of 65523 to 65535 bytes too, for
which R77 leaves no valid frame under any CAP, is the model's choice (log entry 8). -/
def Obligations.PseudoInstructionsExpand : Prop :=
  (∀ bytes : List Byte, Asm.expand .pushs [.text bytes] = .ok (bytes.map .push)) ∧
    (∀ bytes : List Byte, bytes ≠ [] →
      Asm.expand .pushb (bytes.map (fun b => .number b.toNat)) = .ok (bytes.map .push)) ∧
    (∀ bytes : List Byte, Asm.expand .crcUpdates [.text bytes] = .ok (bytes.map .crcUpdate)) ∧
    (∀ (t0 t1 t2 : Byte) (body : List Byte), body.length ≤ 65535 →
      ∃ f, Asm.expand .frame [.number t0.toNat, .number t1.toNat, .number t2.toNat, .text body] =
          .ok (f.map .push) ∧
        f = Frame.build t0 t1 t2 body ∧ (body.length + 13 ≤ 65535 → Frame.valid 0xFFFF#16 f = true)) ∧
    Asm.expand .attachAll [] = .ok [.pktAttach, .errAttach] ∧
    Asm.expand .pushs [.text []] = .ok [] ∧ Asm.expand .crcUpdates [.text []] = .ok []

/-! ## Launch states -/

/-- R31, R230, D31, U5: from a state with a STATE code of 0..5 that breaks the invariant of R31 a step is refused,
whatever word stands at the command port, legal or illegal, or none; and no step is refused from any other state. A
hardware reset is taken from every state; that, and that each step makes the check, is the model's choice (log entry
7). -/
def Obligations.InconsistentLaunchStatesAreRefused : Prop :=
  (∀ s : State, s.state.toNat ≤ 5 → consistent s = false → (∀ rest, s.inputs ≠ .reset :: rest) →
    step s = .refused .inconsistentLaunchState) ∧
  ∀ (s : State) (r : Refusal), step s = .refused r →
    r = .inconsistentLaunchState ∧ s.state.toNat ≤ 5 ∧ consistent s = false ∧ ∀ rest, s.inputs ≠ .reset :: rest
end

