-- ==== Sys2Proof/Laws/Encoding.lean ====
section
/-! SUPPORT. The small laws of the fields, the opcode map, decode and encode. -/

namespace Sys2Proof

/-! ## The fields as numbers -/

theorem opField_toNat (w : Word) : (opField w).toNat = w.toNat / 2 ^ 24 := by
  simp [opField, BitVec.extractLsb'_toNat, Nat.shiftRight_eq_div_pow]; omega

theorem rsvField_toNat (w : Word) : (rsvField w).toNat = w.toNat / 2 ^ 16 % 2 ^ 8 := by
  simp [rsvField, BitVec.extractLsb'_toNat, Nat.shiftRight_eq_div_pow]

theorem immField_toNat (w : Word) : (immField w).toNat = w.toNat % 2 ^ 16 := by
  simp [immField, BitVec.extractLsb'_toNat, Nat.shiftRight_eq_div_pow]

theorem byteOperand_toNat (imm : Half) : (byteOperand imm).toNat = imm.toNat % 2 ^ 8 := by
  simp [byteOperand, BitVec.extractLsb'_toNat, Nat.shiftRight_eq_div_pow]

theorem highOperand_toNat (imm : Half) : (highOperand imm).toNat = imm.toNat / 2 ^ 8 := by
  simp [highOperand, BitVec.extractLsb'_toNat, Nat.shiftRight_eq_div_pow]; omega

theorem byteImm_toNat (b : Byte) : (byteImm b).toNat = b.toNat := by
  simp [byteImm]; omega

theorem commandWord_toNat (op rsv : Byte) (imm : Half) :
    (commandWord op rsv imm).toNat = op.toNat * 2 ^ 24 + rsv.toNat * 2 ^ 16 + imm.toNat := by
  have h1 : (op ++ rsv).toNat = op.toNat * 2 ^ 8 + rsv.toNat := by
    rw [BitVec.toNat_append, ← Nat.shiftLeft_add_eq_or_of_lt rsv.isLt, Nat.shiftLeft_eq]
  rw [commandWord, BitVec.toNat_append, ← Nat.shiftLeft_add_eq_or_of_lt imm.isLt, Nat.shiftLeft_eq, h1]
  ring

/-- The byte operand of a byte's imm16 is the byte. -/
@[simp] theorem byteOperand_byteImm (b : Byte) : byteOperand (byteImm b) = b := by
  apply BitVec.eq_of_toNat_eq
  rw [byteOperand_toNat, byteImm_toNat]
  exact Nat.mod_eq_of_lt b.isLt

/-- An imm16 whose high half is 0 is that of its byte operand. -/
theorem byteImm_byteOperand {imm : Half} (h : highOperand imm = 0#8) : byteImm (byteOperand imm) = imm := by
  apply BitVec.eq_of_toNat_eq
  have h0 : imm.toNat / 2 ^ 8 = 0 := by rw [← highOperand_toNat, h]; rfl
  rw [byteImm_toNat, byteOperand_toNat]
  omega

/-- A word is made of its three fields. -/
theorem commandWord_fields (w : Word) : commandWord (opField w) (rsvField w) (immField w) = w := by
  apply BitVec.eq_of_toNat_eq
  rw [commandWord_toNat, opField_toNat, rsvField_toNat, immField_toNat]
  omega

/-! ## The opcode map -/

@[simp] theorem ofCode_opcode_code (o : Opcode) : Opcode.ofCode o.code = some o := by cases o <;> decide

/-- An op field selects at most the opcode whose code it is. -/
theorem code_of_ofCode {c : Byte} {o : Opcode} (h : Opcode.ofCode c = some o) : c = o.code := by
  unfold Opcode.ofCode at h
  have h' := List.find?_some (p := fun o : Opcode => o.code == c) h
  exact (beq_iff_eq.mp h').symm

@[simp] theorem opcode_instr (o : Opcode) (imm : Half) : (o.instr imm).opcode = o := by cases o <;> rfl

/-! ## Decode -/

/-- decode answers a command exactly when the three checks of R87 hold, and then it is the one the op field selects. -/
theorem decode_eq_ok_iff {w : Word} {i : Instr} :
    decode w = .ok i ↔
      ∃ o, Opcode.ofCode (opField w) = some o ∧ rsvField w = 0#8 ∧
        o.format.mustBeZeroHolds (immField w) = true ∧ i = o.instr (immField w) := by
  unfold decode
  cases h : Opcode.ofCode (opField w) with
  | none => simp
  | some o =>
    by_cases hr : rsvField w = 0#8 <;> by_cases hz : o.format.mustBeZeroHolds (immField w) = true <;>
      simp only [reservedIsZero, hr, hz] <;>
      simp [hr, hz, @eq_comm _ i]

/-- decode answers no command exactly when it answers a reason. -/
theorem decode_cases (w : Word) : (∃ i, decode w = .ok i) ∨ ∃ e, decode w = .error e := by
  cases decode w with
  | ok i => exact .inl ⟨i, rfl⟩
  | error e => exact .inr ⟨e, rfl⟩

end Sys2Proof
end

