-- ==== Sys2Proof/Laws/Memory.lean ====
section
/-! SUPPORT. The laws of the frame buffer's list: read after write, and that a write keeps the canonical form. -/

namespace Sys2Proof.Machine.Memory

@[simp] theorem lookup_nil (i : Nat) : lookup [] i = unlisted := rfl

/-- Read after write: the written index reads the byte, every other index reads as before. -/
theorem lookup_write (m : List Host.Cell) (i j : Nat) (b : Byte) :
    lookup (write m i b) j = if j = i then some b else lookup m j := by
  induction m with
  | nil =>
    by_cases h : j = i
    · simp [write, lookup, h]
    · simp [write, lookup, h, Ne.symm h]
  | cons x m ih =>
    obtain ⟨a, c⟩ := x
    simp only [write]
    split
    · by_cases h : j = i
      · simp [lookup, h]
      · simp [lookup, h, Ne.symm h]
    · split
      · rename_i h; subst h
        by_cases h : j = i
        · simp [lookup, h]
        · simp [lookup, h, Ne.symm h]
      · by_cases h : j = i
        · subst h; simp_all [lookup, eq_comm]
        · simp only [lookup, ih, h, if_false]

@[simp] theorem lookup_write_same (m : List Host.Cell) (i : Nat) (b : Byte) : lookup (write m i b) i = some b := by
  simp [lookup_write]

theorem lookup_write_other {i j : Nat} (m : List Host.Cell) (b : Byte) (h : j ≠ i) :
    lookup (write m i b) j = lookup m j := by
  simp [lookup_write, h]

/-- A cell of the written list is the written one or one of before. -/
theorem mem_write {m : List Host.Cell} {i : Nat} {b : Byte} {x : Host.Cell} (h : x ∈ write m i b) :
    x = (i, b) ∨ x ∈ m := by
  induction m with
  | nil => exact .inl (by simpa [write] using h)
  | cons y m ih =>
    obtain ⟨a, c⟩ := y
    simp only [write] at h
    split at h
    · simpa using h
    · split at h
      · rcases List.mem_cons.mp h with h | h
        · exact .inl h
        · exact .inr (List.mem_cons_of_mem _ h)
      · rcases List.mem_cons.mp h with h | h
        · exact .inr (h ▸ List.mem_cons_self)
        · exact (ih h).imp_right (List.mem_cons_of_mem _)

/-- A write keeps the canonical form. -/
theorem write_wf {m : List Host.Cell} (i : Nat) (b : Byte) (h : wf m) : wf (write m i b) := by
  induction m with
  | nil => simp [write]
  | cons y m ih =>
    obtain ⟨a, c⟩ := y
    obtain ⟨hy, hm⟩ := List.pairwise_cons.mp h
    simp only [write]
    split
    · rename_i hi
      refine List.pairwise_cons.mpr ⟨fun x hx => ?_, h⟩
      rcases List.mem_cons.mp hx with rfl | hx
      · exact hi
      · exact hi.trans (hy x hx)
    · split
      · rename_i h'; subst h'
        exact List.pairwise_cons.mpr ⟨hy, hm⟩
      · refine List.pairwise_cons.mpr ⟨fun x hx => ?_, ih hm⟩
        rcases mem_write hx with rfl | hx
        · show a < i; omega
        · exact hy x hx

/-- A write below n keeps every listed index below n. -/
theorem write_within {m : List Host.Cell} {i n : Nat} (b : Byte) (h : within m n) (hi : i < n) :
    within (write m i b) n := fun _ hx => by
  rcases mem_write hx with rfl | hx
  · exact hi
  · exact h _ hx

theorem within_mono {m : List Host.Cell} {n k : Nat} (h : within m n) (hk : n ≤ k) : within m k :=
  fun x hx => (h x hx).trans_le hk

/-- An index at or beyond a bound of the listed ones is not listed. -/
theorem lookup_of_within {m : List Host.Cell} {n i : Nat} (h : within m n) (hi : n ≤ i) : lookup m i = unlisted := by
  induction m with
  | nil => rfl
  | cons x m ih =>
    obtain ⟨a, b⟩ := x
    have ha : a < n := h (a, b) List.mem_cons_self
    have : a ≠ i := by omega
    simp only [lookup, this, if_false]
    exact ih fun y hy => h y (List.mem_cons_of_mem _ hy)

theorem listedBelow_iff {m : List Host.Cell} {n : Nat} :
    listedBelow m n = true ↔ ∀ i < n, (lookup m i).isSome = true := by
  simp [listedBelow]

@[simp] theorem listedBelow_zero (m : List Host.Cell) : listedBelow m 0 = true := by simp [listedBelow]

/-- Writing the byte at the bound extends the bound by one. -/
theorem listedBelow_write {m : List Host.Cell} {n : Nat} (b : Byte) (h : listedBelow m n = true) :
    listedBelow (write m n b) (n + 1) = true := by
  rw [listedBelow_iff] at *
  intro i hi
  rw [lookup_write]
  split
  · rfl
  · exact h i (by omega)

end Sys2Proof.Machine.Memory
end

