-- ==== Sys2Proof/Laws/State.lean ====
section
/-! SUPPORT. One lemma per field of the state per named update, each by rfl, so that no later proof unfolds a record
update. -/

namespace Sys2Proof.Machine

/-! ## bufWrite -/

@[simp] theorem bufWrite_opened (i : Nat) (b : Byte) (s : State) : (bufWrite i b s).opened = s.opened := rfl
@[simp] theorem bufWrite_cap (i : Nat) (b : Byte) (s : State) : (bufWrite i b s).cap = s.cap := rfl
@[simp] theorem bufWrite_state (i : Nat) (b : Byte) (s : State) : (bufWrite i b s).state = s.state := rfl
@[simp] theorem bufWrite_cur (i : Nat) (b : Byte) (s : State) : (bufWrite i b s).cur = s.cur := rfl
@[simp] theorem bufWrite_dl (i : Nat) (b : Byte) (s : State) : (bufWrite i b s).dl = s.dl := rfl
@[simp] theorem bufWrite_buf (i : Nat) (b : Byte) (s : State) : (bufWrite i b s).buf = Memory.write s.buf i b := rfl
@[simp] theorem bufWrite_fcrc (i : Nat) (b : Byte) (s : State) : (bufWrite i b s).fcrc = s.fcrc := rfl
@[simp] theorem bufWrite_hcrc (i : Nat) (b : Byte) (s : State) : (bufWrite i b s).hcrc = s.hcrc := rfl
@[simp] theorem bufWrite_pktAtt (i : Nat) (b : Byte) (s : State) : (bufWrite i b s).pktAtt = s.pktAtt := rfl
@[simp] theorem bufWrite_errAtt (i : Nat) (b : Byte) (s : State) : (bufWrite i b s).errAtt = s.errAtt := rfl
@[simp] theorem bufWrite_maxCapacity (i : Nat) (b : Byte) (s : State) : (bufWrite i b s).maxCapacity = s.maxCapacity := rfl
@[simp] theorem bufWrite_epoch (i : Nat) (b : Byte) (s : State) : (bufWrite i b s).epoch = s.epoch := rfl
@[simp] theorem bufWrite_inputs (i : Nat) (b : Byte) (s : State) : (bufWrite i b s).inputs = s.inputs := rfl
@[simp] theorem bufWrite_outputs (i : Nat) (b : Byte) (s : State) : (bufWrite i b s).outputs = s.outputs := rfl

/-! ## discardFrame -/

@[simp] theorem discardFrame_opened (s : State) : (discardFrame s).opened = s.opened := rfl
@[simp] theorem discardFrame_cap (s : State) : (discardFrame s).cap = s.cap := rfl
@[simp] theorem discardFrame_state (s : State) : (discardFrame s).state = s.state := rfl
@[simp] theorem discardFrame_cur (s : State) : (discardFrame s).cur = s.cur := rfl
@[simp] theorem discardFrame_dl (s : State) : (discardFrame s).dl = s.dl := rfl
@[simp] theorem discardFrame_buf (s : State) : (discardFrame s).buf = [] := rfl
@[simp] theorem discardFrame_fcrc (s : State) : (discardFrame s).fcrc = Config.freeFcrc s.epoch := rfl
@[simp] theorem discardFrame_hcrc (s : State) : (discardFrame s).hcrc = s.hcrc := rfl
@[simp] theorem discardFrame_pktAtt (s : State) : (discardFrame s).pktAtt = s.pktAtt := rfl
@[simp] theorem discardFrame_errAtt (s : State) : (discardFrame s).errAtt = s.errAtt := rfl
@[simp] theorem discardFrame_maxCapacity (s : State) : (discardFrame s).maxCapacity = s.maxCapacity := rfl
@[simp] theorem discardFrame_epoch (s : State) : (discardFrame s).epoch = s.epoch + 1 := rfl
@[simp] theorem discardFrame_inputs (s : State) : (discardFrame s).inputs = s.inputs := rfl
@[simp] theorem discardFrame_outputs (s : State) : (discardFrame s).outputs = s.outputs := rfl

/-! ## respond -/

@[simp] theorem respond_opened (r : Status) (d : Word) (s : State) : (respond r d s).opened = s.opened := rfl
@[simp] theorem respond_cap (r : Status) (d : Word) (s : State) : (respond r d s).cap = s.cap := rfl
@[simp] theorem respond_state (r : Status) (d : Word) (s : State) : (respond r d s).state = s.state := rfl
@[simp] theorem respond_cur (r : Status) (d : Word) (s : State) : (respond r d s).cur = s.cur := rfl
@[simp] theorem respond_dl (r : Status) (d : Word) (s : State) : (respond r d s).dl = s.dl := rfl
@[simp] theorem respond_buf (r : Status) (d : Word) (s : State) : (respond r d s).buf = s.buf := rfl
@[simp] theorem respond_fcrc (r : Status) (d : Word) (s : State) : (respond r d s).fcrc = s.fcrc := rfl
@[simp] theorem respond_hcrc (r : Status) (d : Word) (s : State) : (respond r d s).hcrc = s.hcrc := rfl
@[simp] theorem respond_pktAtt (r : Status) (d : Word) (s : State) : (respond r d s).pktAtt = s.pktAtt := rfl
@[simp] theorem respond_errAtt (r : Status) (d : Word) (s : State) : (respond r d s).errAtt = s.errAtt := rfl
@[simp] theorem respond_maxCapacity (r : Status) (d : Word) (s : State) : (respond r d s).maxCapacity = s.maxCapacity := rfl
@[simp] theorem respond_epoch (r : Status) (d : Word) (s : State) : (respond r d s).epoch = s.epoch := rfl
@[simp] theorem respond_inputs (r : Status) (d : Word) (s : State) : (respond r d s).inputs = s.inputs := rfl
@[simp] theorem respond_outputs (r : Status) (d : Word) (s : State) : (respond r d s).outputs = s.outputs ++ [.response ⟨r, d⟩] := rfl

/-! ## respondOk -/

@[simp] theorem respondOk_opened (s : State) : (respondOk s).opened = s.opened := rfl
@[simp] theorem respondOk_cap (s : State) : (respondOk s).cap = s.cap := rfl
@[simp] theorem respondOk_state (s : State) : (respondOk s).state = s.state := rfl
@[simp] theorem respondOk_cur (s : State) : (respondOk s).cur = s.cur := rfl
@[simp] theorem respondOk_dl (s : State) : (respondOk s).dl = s.dl := rfl
@[simp] theorem respondOk_buf (s : State) : (respondOk s).buf = s.buf := rfl
@[simp] theorem respondOk_fcrc (s : State) : (respondOk s).fcrc = s.fcrc := rfl
@[simp] theorem respondOk_hcrc (s : State) : (respondOk s).hcrc = s.hcrc := rfl
@[simp] theorem respondOk_pktAtt (s : State) : (respondOk s).pktAtt = s.pktAtt := rfl
@[simp] theorem respondOk_errAtt (s : State) : (respondOk s).errAtt = s.errAtt := rfl
@[simp] theorem respondOk_maxCapacity (s : State) : (respondOk s).maxCapacity = s.maxCapacity := rfl
@[simp] theorem respondOk_epoch (s : State) : (respondOk s).epoch = s.epoch := rfl
@[simp] theorem respondOk_inputs (s : State) : (respondOk s).inputs = s.inputs := rfl
@[simp] theorem respondOk_outputs (s : State) : (respondOk s).outputs = s.outputs ++ [.response ⟨.ok, 0#32⟩] := rfl

/-! ## abort -/

@[simp] theorem abort_opened (s : State) : (abort s).opened = s.opened := rfl
@[simp] theorem abort_cap (s : State) : (abort s).cap = s.cap := rfl
@[simp] theorem abort_state (s : State) : (abort s).state = 0#3 := rfl
@[simp] theorem abort_cur (s : State) : (abort s).cur = 0#16 := rfl
@[simp] theorem abort_dl (s : State) : (abort s).dl = 0#16 := rfl
@[simp] theorem abort_buf (s : State) : (abort s).buf = [] := rfl
@[simp] theorem abort_fcrc (s : State) : (abort s).fcrc = Config.freeFcrc s.epoch := rfl
@[simp] theorem abort_hcrc (s : State) : (abort s).hcrc = s.hcrc := rfl
@[simp] theorem abort_pktAtt (s : State) : (abort s).pktAtt = s.pktAtt := rfl
@[simp] theorem abort_errAtt (s : State) : (abort s).errAtt = s.errAtt := rfl
@[simp] theorem abort_maxCapacity (s : State) : (abort s).maxCapacity = s.maxCapacity := rfl
@[simp] theorem abort_epoch (s : State) : (abort s).epoch = s.epoch + 1 := rfl
@[simp] theorem abort_inputs (s : State) : (abort s).inputs = s.inputs := rfl
@[simp] theorem abort_outputs (s : State) : (abort s).outputs = s.outputs := rfl

/-! ## signal -/

@[simp] theorem signal_opened (k : ErrorKind) (c : Context) (s : State) : (signal k c s).opened = s.opened := rfl
@[simp] theorem signal_cap (k : ErrorKind) (c : Context) (s : State) : (signal k c s).cap = s.cap := rfl
@[simp] theorem signal_state (k : ErrorKind) (c : Context) (s : State) : (signal k c s).state = s.state := rfl
@[simp] theorem signal_cur (k : ErrorKind) (c : Context) (s : State) : (signal k c s).cur = s.cur := rfl
@[simp] theorem signal_dl (k : ErrorKind) (c : Context) (s : State) : (signal k c s).dl = s.dl := rfl
@[simp] theorem signal_buf (k : ErrorKind) (c : Context) (s : State) : (signal k c s).buf = s.buf := rfl
@[simp] theorem signal_fcrc (k : ErrorKind) (c : Context) (s : State) : (signal k c s).fcrc = s.fcrc := rfl
@[simp] theorem signal_hcrc (k : ErrorKind) (c : Context) (s : State) : (signal k c s).hcrc = s.hcrc := rfl
@[simp] theorem signal_pktAtt (k : ErrorKind) (c : Context) (s : State) : (signal k c s).pktAtt = s.pktAtt := rfl
@[simp] theorem signal_errAtt (k : ErrorKind) (c : Context) (s : State) : (signal k c s).errAtt = s.errAtt := rfl
@[simp] theorem signal_maxCapacity (k : ErrorKind) (c : Context) (s : State) : (signal k c s).maxCapacity = s.maxCapacity := rfl
@[simp] theorem signal_epoch (k : ErrorKind) (c : Context) (s : State) : (signal k c s).epoch = s.epoch := rfl
@[simp] theorem signal_inputs (k : ErrorKind) (c : Context) (s : State) : (signal k c s).inputs = s.inputs := rfl
@[simp] theorem signal_outputs (k : ErrorKind) (c : Context) (s : State) : (signal k c s).outputs = s.outputs ++ (if s.errAtt then [.error ⟨k, c⟩] else []) := rfl

/-! ## deliver -/

@[simp] theorem deliver_opened (n : Half) (s : State) : (deliver n s).opened = s.opened := rfl
@[simp] theorem deliver_cap (n : Half) (s : State) : (deliver n s).cap = s.cap := rfl
@[simp] theorem deliver_state (n : Half) (s : State) : (deliver n s).state = s.state := rfl
@[simp] theorem deliver_cur (n : Half) (s : State) : (deliver n s).cur = s.cur := rfl
@[simp] theorem deliver_dl (n : Half) (s : State) : (deliver n s).dl = s.dl := rfl
@[simp] theorem deliver_buf (n : Half) (s : State) : (deliver n s).buf = s.buf := rfl
@[simp] theorem deliver_fcrc (n : Half) (s : State) : (deliver n s).fcrc = s.fcrc := rfl
@[simp] theorem deliver_hcrc (n : Half) (s : State) : (deliver n s).hcrc = s.hcrc := rfl
@[simp] theorem deliver_pktAtt (n : Half) (s : State) : (deliver n s).pktAtt = s.pktAtt := rfl
@[simp] theorem deliver_errAtt (n : Half) (s : State) : (deliver n s).errAtt = s.errAtt := rfl
@[simp] theorem deliver_maxCapacity (n : Half) (s : State) : (deliver n s).maxCapacity = s.maxCapacity := rfl
@[simp] theorem deliver_epoch (n : Half) (s : State) : (deliver n s).epoch = s.epoch := rfl
@[simp] theorem deliver_inputs (n : Half) (s : State) : (deliver n s).inputs = s.inputs := rfl
@[simp] theorem deliver_outputs (n : Half) (s : State) : (deliver n s).outputs = s.outputs ++ (if s.pktAtt then [.packet ⟨n, bufTake s n.toNat⟩] else []) := rfl

/-! ## diagnose -/

@[simp] theorem diagnose_opened (k : ErrorKind) (d : BitVec 17) (s : State) : (diagnose k d s).opened = s.opened := rfl
@[simp] theorem diagnose_cap (k : ErrorKind) (d : BitVec 17) (s : State) : (diagnose k d s).cap = s.cap := rfl
@[simp] theorem diagnose_state (k : ErrorKind) (d : BitVec 17) (s : State) : (diagnose k d s).state = 0#3 := rfl
@[simp] theorem diagnose_cur (k : ErrorKind) (d : BitVec 17) (s : State) : (diagnose k d s).cur = 0#16 := rfl
@[simp] theorem diagnose_dl (k : ErrorKind) (d : BitVec 17) (s : State) : (diagnose k d s).dl = 0#16 := rfl
@[simp] theorem diagnose_buf (k : ErrorKind) (d : BitVec 17) (s : State) : (diagnose k d s).buf = [] := rfl
@[simp] theorem diagnose_fcrc (k : ErrorKind) (d : BitVec 17) (s : State) : (diagnose k d s).fcrc = Config.freeFcrc s.epoch := rfl
@[simp] theorem diagnose_hcrc (k : ErrorKind) (d : BitVec 17) (s : State) : (diagnose k d s).hcrc = s.hcrc := rfl
@[simp] theorem diagnose_pktAtt (k : ErrorKind) (d : BitVec 17) (s : State) : (diagnose k d s).pktAtt = s.pktAtt := rfl
@[simp] theorem diagnose_errAtt (k : ErrorKind) (d : BitVec 17) (s : State) : (diagnose k d s).errAtt = s.errAtt := rfl
@[simp] theorem diagnose_maxCapacity (k : ErrorKind) (d : BitVec 17) (s : State) : (diagnose k d s).maxCapacity = s.maxCapacity := rfl
@[simp] theorem diagnose_epoch (k : ErrorKind) (d : BitVec 17) (s : State) : (diagnose k d s).epoch = s.epoch + 1 := rfl
@[simp] theorem diagnose_inputs (k : ErrorKind) (d : BitVec 17) (s : State) : (diagnose k d s).inputs = s.inputs := rfl
@[simp] theorem diagnose_outputs (k : ErrorKind) (d : BitVec 17) (s : State) : (diagnose k d s).outputs = s.outputs ++ (if s.errAtt then [.error ⟨k, contextOf d s⟩] else []) := rfl

/-! ## withInputs -/

@[simp] theorem withInputs_opened (l : List Input) (s : State) : (withInputs l s).opened = s.opened := rfl
@[simp] theorem withInputs_cap (l : List Input) (s : State) : (withInputs l s).cap = s.cap := rfl
@[simp] theorem withInputs_state (l : List Input) (s : State) : (withInputs l s).state = s.state := rfl
@[simp] theorem withInputs_cur (l : List Input) (s : State) : (withInputs l s).cur = s.cur := rfl
@[simp] theorem withInputs_dl (l : List Input) (s : State) : (withInputs l s).dl = s.dl := rfl
@[simp] theorem withInputs_buf (l : List Input) (s : State) : (withInputs l s).buf = s.buf := rfl
@[simp] theorem withInputs_fcrc (l : List Input) (s : State) : (withInputs l s).fcrc = s.fcrc := rfl
@[simp] theorem withInputs_hcrc (l : List Input) (s : State) : (withInputs l s).hcrc = s.hcrc := rfl
@[simp] theorem withInputs_pktAtt (l : List Input) (s : State) : (withInputs l s).pktAtt = s.pktAtt := rfl
@[simp] theorem withInputs_errAtt (l : List Input) (s : State) : (withInputs l s).errAtt = s.errAtt := rfl
@[simp] theorem withInputs_maxCapacity (l : List Input) (s : State) : (withInputs l s).maxCapacity = s.maxCapacity := rfl
@[simp] theorem withInputs_epoch (l : List Input) (s : State) : (withInputs l s).epoch = s.epoch := rfl
@[simp] theorem withInputs_inputs (l : List Input) (s : State) : (withInputs l s).inputs = l := rfl
@[simp] theorem withInputs_outputs (l : List Input) (s : State) : (withInputs l s).outputs = s.outputs := rfl

/-! ## placeCommand -/

@[simp] theorem placeCommand_opened (w : Word) (s : State) : (placeCommand w s).opened = s.opened := rfl
@[simp] theorem placeCommand_cap (w : Word) (s : State) : (placeCommand w s).cap = s.cap := rfl
@[simp] theorem placeCommand_state (w : Word) (s : State) : (placeCommand w s).state = s.state := rfl
@[simp] theorem placeCommand_cur (w : Word) (s : State) : (placeCommand w s).cur = s.cur := rfl
@[simp] theorem placeCommand_dl (w : Word) (s : State) : (placeCommand w s).dl = s.dl := rfl
@[simp] theorem placeCommand_buf (w : Word) (s : State) : (placeCommand w s).buf = s.buf := rfl
@[simp] theorem placeCommand_fcrc (w : Word) (s : State) : (placeCommand w s).fcrc = s.fcrc := rfl
@[simp] theorem placeCommand_hcrc (w : Word) (s : State) : (placeCommand w s).hcrc = s.hcrc := rfl
@[simp] theorem placeCommand_pktAtt (w : Word) (s : State) : (placeCommand w s).pktAtt = s.pktAtt := rfl
@[simp] theorem placeCommand_errAtt (w : Word) (s : State) : (placeCommand w s).errAtt = s.errAtt := rfl
@[simp] theorem placeCommand_maxCapacity (w : Word) (s : State) : (placeCommand w s).maxCapacity = s.maxCapacity := rfl
@[simp] theorem placeCommand_epoch (w : Word) (s : State) : (placeCommand w s).epoch = s.epoch := rfl
@[simp] theorem placeCommand_inputs (w : Word) (s : State) : (placeCommand w s).inputs = .command w :: s.inputs := rfl
@[simp] theorem placeCommand_outputs (w : Word) (s : State) : (placeCommand w s).outputs = s.outputs := rfl

/-! ## hardwareReset -/

@[simp] theorem hardwareReset_opened (s : State) : (hardwareReset s).opened = false := rfl
@[simp] theorem hardwareReset_cap (s : State) : (hardwareReset s).cap = 0#16 := rfl
@[simp] theorem hardwareReset_state (s : State) : (hardwareReset s).state = 0#3 := rfl
@[simp] theorem hardwareReset_cur (s : State) : (hardwareReset s).cur = 0#16 := rfl
@[simp] theorem hardwareReset_dl (s : State) : (hardwareReset s).dl = 0#16 := rfl
@[simp] theorem hardwareReset_buf (s : State) : (hardwareReset s).buf = [] := rfl
@[simp] theorem hardwareReset_fcrc (s : State) : (hardwareReset s).fcrc = Config.freeFcrc s.epoch := rfl
@[simp] theorem hardwareReset_hcrc (s : State) : (hardwareReset s).hcrc = 0xFFFFFFFF#32 := rfl
@[simp] theorem hardwareReset_pktAtt (s : State) : (hardwareReset s).pktAtt = false := rfl
@[simp] theorem hardwareReset_errAtt (s : State) : (hardwareReset s).errAtt = false := rfl
@[simp] theorem hardwareReset_maxCapacity (s : State) : (hardwareReset s).maxCapacity = s.maxCapacity := rfl
@[simp] theorem hardwareReset_epoch (s : State) : (hardwareReset s).epoch = s.epoch + 1 := rfl
@[simp] theorem hardwareReset_inputs (s : State) : (hardwareReset s).inputs = s.inputs := rfl
@[simp] theorem hardwareReset_outputs (s : State) : (hardwareReset s).outputs = s.outputs := rfl

/-! ## setPktAtt -/

@[simp] theorem setPktAtt_opened (v : Bool) (s : State) : (setPktAtt v s).opened = s.opened := rfl
@[simp] theorem setPktAtt_cap (v : Bool) (s : State) : (setPktAtt v s).cap = s.cap := rfl
@[simp] theorem setPktAtt_state (v : Bool) (s : State) : (setPktAtt v s).state = s.state := rfl
@[simp] theorem setPktAtt_cur (v : Bool) (s : State) : (setPktAtt v s).cur = s.cur := rfl
@[simp] theorem setPktAtt_dl (v : Bool) (s : State) : (setPktAtt v s).dl = s.dl := rfl
@[simp] theorem setPktAtt_buf (v : Bool) (s : State) : (setPktAtt v s).buf = s.buf := rfl
@[simp] theorem setPktAtt_fcrc (v : Bool) (s : State) : (setPktAtt v s).fcrc = s.fcrc := rfl
@[simp] theorem setPktAtt_hcrc (v : Bool) (s : State) : (setPktAtt v s).hcrc = s.hcrc := rfl
@[simp] theorem setPktAtt_pktAtt (v : Bool) (s : State) : (setPktAtt v s).pktAtt = v := rfl
@[simp] theorem setPktAtt_errAtt (v : Bool) (s : State) : (setPktAtt v s).errAtt = s.errAtt := rfl
@[simp] theorem setPktAtt_maxCapacity (v : Bool) (s : State) : (setPktAtt v s).maxCapacity = s.maxCapacity := rfl
@[simp] theorem setPktAtt_epoch (v : Bool) (s : State) : (setPktAtt v s).epoch = s.epoch := rfl
@[simp] theorem setPktAtt_inputs (v : Bool) (s : State) : (setPktAtt v s).inputs = s.inputs := rfl
@[simp] theorem setPktAtt_outputs (v : Bool) (s : State) : (setPktAtt v s).outputs = s.outputs := rfl

/-! ## setErrAtt -/

@[simp] theorem setErrAtt_opened (v : Bool) (s : State) : (setErrAtt v s).opened = s.opened := rfl
@[simp] theorem setErrAtt_cap (v : Bool) (s : State) : (setErrAtt v s).cap = s.cap := rfl
@[simp] theorem setErrAtt_state (v : Bool) (s : State) : (setErrAtt v s).state = s.state := rfl
@[simp] theorem setErrAtt_cur (v : Bool) (s : State) : (setErrAtt v s).cur = s.cur := rfl
@[simp] theorem setErrAtt_dl (v : Bool) (s : State) : (setErrAtt v s).dl = s.dl := rfl
@[simp] theorem setErrAtt_buf (v : Bool) (s : State) : (setErrAtt v s).buf = s.buf := rfl
@[simp] theorem setErrAtt_fcrc (v : Bool) (s : State) : (setErrAtt v s).fcrc = s.fcrc := rfl
@[simp] theorem setErrAtt_hcrc (v : Bool) (s : State) : (setErrAtt v s).hcrc = s.hcrc := rfl
@[simp] theorem setErrAtt_pktAtt (v : Bool) (s : State) : (setErrAtt v s).pktAtt = s.pktAtt := rfl
@[simp] theorem setErrAtt_errAtt (v : Bool) (s : State) : (setErrAtt v s).errAtt = v := rfl
@[simp] theorem setErrAtt_maxCapacity (v : Bool) (s : State) : (setErrAtt v s).maxCapacity = s.maxCapacity := rfl
@[simp] theorem setErrAtt_epoch (v : Bool) (s : State) : (setErrAtt v s).epoch = s.epoch := rfl
@[simp] theorem setErrAtt_inputs (v : Bool) (s : State) : (setErrAtt v s).inputs = s.inputs := rfl
@[simp] theorem setErrAtt_outputs (v : Bool) (s : State) : (setErrAtt v s).outputs = s.outputs := rfl

/-! ## setHcrc -/

@[simp] theorem setHcrc_opened (v : Word) (s : State) : (setHcrc v s).opened = s.opened := rfl
@[simp] theorem setHcrc_cap (v : Word) (s : State) : (setHcrc v s).cap = s.cap := rfl
@[simp] theorem setHcrc_state (v : Word) (s : State) : (setHcrc v s).state = s.state := rfl
@[simp] theorem setHcrc_cur (v : Word) (s : State) : (setHcrc v s).cur = s.cur := rfl
@[simp] theorem setHcrc_dl (v : Word) (s : State) : (setHcrc v s).dl = s.dl := rfl
@[simp] theorem setHcrc_buf (v : Word) (s : State) : (setHcrc v s).buf = s.buf := rfl
@[simp] theorem setHcrc_fcrc (v : Word) (s : State) : (setHcrc v s).fcrc = s.fcrc := rfl
@[simp] theorem setHcrc_hcrc (v : Word) (s : State) : (setHcrc v s).hcrc = v := rfl
@[simp] theorem setHcrc_pktAtt (v : Word) (s : State) : (setHcrc v s).pktAtt = s.pktAtt := rfl
@[simp] theorem setHcrc_errAtt (v : Word) (s : State) : (setHcrc v s).errAtt = s.errAtt := rfl
@[simp] theorem setHcrc_maxCapacity (v : Word) (s : State) : (setHcrc v s).maxCapacity = s.maxCapacity := rfl
@[simp] theorem setHcrc_epoch (v : Word) (s : State) : (setHcrc v s).epoch = s.epoch := rfl
@[simp] theorem setHcrc_inputs (v : Word) (s : State) : (setHcrc v s).inputs = s.inputs := rfl
@[simp] theorem setHcrc_outputs (v : Word) (s : State) : (setHcrc v s).outputs = s.outputs := rfl

/-! ## openParser -/

@[simp] theorem openParser_opened (c : Half) (s : State) : (openParser c s).opened = true := rfl
@[simp] theorem openParser_cap (c : Half) (s : State) : (openParser c s).cap = c := rfl
@[simp] theorem openParser_state (c : Half) (s : State) : (openParser c s).state = 0#3 := rfl
@[simp] theorem openParser_cur (c : Half) (s : State) : (openParser c s).cur = 0#16 := rfl
@[simp] theorem openParser_dl (c : Half) (s : State) : (openParser c s).dl = 0#16 := rfl
@[simp] theorem openParser_buf (c : Half) (s : State) : (openParser c s).buf = [] := rfl
@[simp] theorem openParser_fcrc (c : Half) (s : State) : (openParser c s).fcrc = Config.freeFcrc s.epoch := rfl
@[simp] theorem openParser_hcrc (c : Half) (s : State) : (openParser c s).hcrc = s.hcrc := rfl
@[simp] theorem openParser_pktAtt (c : Half) (s : State) : (openParser c s).pktAtt = s.pktAtt := rfl
@[simp] theorem openParser_errAtt (c : Half) (s : State) : (openParser c s).errAtt = s.errAtt := rfl
@[simp] theorem openParser_maxCapacity (c : Half) (s : State) : (openParser c s).maxCapacity = s.maxCapacity := rfl
@[simp] theorem openParser_epoch (c : Half) (s : State) : (openParser c s).epoch = s.epoch + 1 := rfl
@[simp] theorem openParser_inputs (c : Half) (s : State) : (openParser c s).inputs = s.inputs := rfl
@[simp] theorem openParser_outputs (c : Half) (s : State) : (openParser c s).outputs = s.outputs := rfl

/-! ## closeParser -/

@[simp] theorem closeParser_opened (s : State) : (closeParser s).opened = false := rfl
@[simp] theorem closeParser_cap (s : State) : (closeParser s).cap = 0#16 := rfl
@[simp] theorem closeParser_state (s : State) : (closeParser s).state = 0#3 := rfl
@[simp] theorem closeParser_cur (s : State) : (closeParser s).cur = 0#16 := rfl
@[simp] theorem closeParser_dl (s : State) : (closeParser s).dl = 0#16 := rfl
@[simp] theorem closeParser_buf (s : State) : (closeParser s).buf = [] := rfl
@[simp] theorem closeParser_fcrc (s : State) : (closeParser s).fcrc = Config.freeFcrc s.epoch := rfl
@[simp] theorem closeParser_hcrc (s : State) : (closeParser s).hcrc = s.hcrc := rfl
@[simp] theorem closeParser_pktAtt (s : State) : (closeParser s).pktAtt = s.pktAtt := rfl
@[simp] theorem closeParser_errAtt (s : State) : (closeParser s).errAtt = s.errAtt := rfl
@[simp] theorem closeParser_maxCapacity (s : State) : (closeParser s).maxCapacity = s.maxCapacity := rfl
@[simp] theorem closeParser_epoch (s : State) : (closeParser s).epoch = s.epoch + 1 := rfl
@[simp] theorem closeParser_inputs (s : State) : (closeParser s).inputs = s.inputs := rfl
@[simp] theorem closeParser_outputs (s : State) : (closeParser s).outputs = s.outputs := rfl

/-! ## setParser -/

@[simp] theorem setParser_opened (p : ParserState) (s : State) : (setParser p s).opened = s.opened := rfl
@[simp] theorem setParser_cap (p : ParserState) (s : State) : (setParser p s).cap = s.cap := rfl
@[simp] theorem setParser_state (p : ParserState) (s : State) : (setParser p s).state = p.code := rfl
@[simp] theorem setParser_cur (p : ParserState) (s : State) : (setParser p s).cur = s.cur := rfl
@[simp] theorem setParser_dl (p : ParserState) (s : State) : (setParser p s).dl = s.dl := rfl
@[simp] theorem setParser_buf (p : ParserState) (s : State) : (setParser p s).buf = s.buf := rfl
@[simp] theorem setParser_fcrc (p : ParserState) (s : State) : (setParser p s).fcrc = s.fcrc := rfl
@[simp] theorem setParser_hcrc (p : ParserState) (s : State) : (setParser p s).hcrc = s.hcrc := rfl
@[simp] theorem setParser_pktAtt (p : ParserState) (s : State) : (setParser p s).pktAtt = s.pktAtt := rfl
@[simp] theorem setParser_errAtt (p : ParserState) (s : State) : (setParser p s).errAtt = s.errAtt := rfl
@[simp] theorem setParser_maxCapacity (p : ParserState) (s : State) : (setParser p s).maxCapacity = s.maxCapacity := rfl
@[simp] theorem setParser_epoch (p : ParserState) (s : State) : (setParser p s).epoch = s.epoch := rfl
@[simp] theorem setParser_inputs (p : ParserState) (s : State) : (setParser p s).inputs = s.inputs := rfl
@[simp] theorem setParser_outputs (p : ParserState) (s : State) : (setParser p s).outputs = s.outputs := rfl

/-! ## accept -/

@[simp] theorem accept_opened (b : Byte) (s : State) : (accept b s).opened = s.opened := rfl
@[simp] theorem accept_cap (b : Byte) (s : State) : (accept b s).cap = s.cap := rfl
@[simp] theorem accept_state (b : Byte) (s : State) : (accept b s).state = s.state := rfl
@[simp] theorem accept_cur (b : Byte) (s : State) : (accept b s).cur = s.cur + 1#16 := rfl
@[simp] theorem accept_dl (b : Byte) (s : State) : (accept b s).dl = s.dl := rfl
@[simp] theorem accept_buf (b : Byte) (s : State) : (accept b s).buf = Memory.write s.buf s.cur.toNat b := rfl
@[simp] theorem accept_fcrc (b : Byte) (s : State) : (accept b s).fcrc = s.fcrc := rfl
@[simp] theorem accept_hcrc (b : Byte) (s : State) : (accept b s).hcrc = s.hcrc := rfl
@[simp] theorem accept_pktAtt (b : Byte) (s : State) : (accept b s).pktAtt = s.pktAtt := rfl
@[simp] theorem accept_errAtt (b : Byte) (s : State) : (accept b s).errAtt = s.errAtt := rfl
@[simp] theorem accept_maxCapacity (b : Byte) (s : State) : (accept b s).maxCapacity = s.maxCapacity := rfl
@[simp] theorem accept_epoch (b : Byte) (s : State) : (accept b s).epoch = s.epoch := rfl
@[simp] theorem accept_inputs (b : Byte) (s : State) : (accept b s).inputs = s.inputs := rfl
@[simp] theorem accept_outputs (b : Byte) (s : State) : (accept b s).outputs = s.outputs := rfl

/-! ## runFcrc -/

@[simp] theorem runFcrc_opened (s : State) : (runFcrc s).opened = s.opened := rfl
@[simp] theorem runFcrc_cap (s : State) : (runFcrc s).cap = s.cap := rfl
@[simp] theorem runFcrc_state (s : State) : (runFcrc s).state = s.state := rfl
@[simp] theorem runFcrc_cur (s : State) : (runFcrc s).cur = s.cur := rfl
@[simp] theorem runFcrc_dl (s : State) : (runFcrc s).dl = s.dl := rfl
@[simp] theorem runFcrc_buf (s : State) : (runFcrc s).buf = s.buf := rfl
@[simp] theorem runFcrc_fcrc (s : State) : (runFcrc s).fcrc = crcUpdate Config.crcInit (checksumDomain s) := rfl
@[simp] theorem runFcrc_hcrc (s : State) : (runFcrc s).hcrc = s.hcrc := rfl
@[simp] theorem runFcrc_pktAtt (s : State) : (runFcrc s).pktAtt = s.pktAtt := rfl
@[simp] theorem runFcrc_errAtt (s : State) : (runFcrc s).errAtt = s.errAtt := rfl
@[simp] theorem runFcrc_maxCapacity (s : State) : (runFcrc s).maxCapacity = s.maxCapacity := rfl
@[simp] theorem runFcrc_epoch (s : State) : (runFcrc s).epoch = s.epoch := rfl
@[simp] theorem runFcrc_inputs (s : State) : (runFcrc s).inputs = s.inputs := rfl
@[simp] theorem runFcrc_outputs (s : State) : (runFcrc s).outputs = s.outputs := rfl

end Sys2Proof.Machine
end

