-- ==== Sys2Proof/Laws/Ops.lean ====
section
/-! SUPPORT. What each shared operation can do, said once: buffer reads, recovery, the guard of PUSH, and the step. -/

namespace Sys2Proof.Machine

/-! ## Buffer reads -/

/-- A byte reads the same in two states whose buffers list the same byte there and draw the same free values. -/
theorem bufRead_congr {s t : State} {i : Nat} (h : Memory.lookup t.buf i = Memory.lookup s.buf i)
    (he : t.epoch = s.epoch) : bufRead t i = bufRead s i := by
  simp only [bufRead, h, he]

theorem bufRead_of_lookup {s : State} {i : Nat} {b : Byte} (h : Memory.lookup s.buf i = some b) : bufRead s i = b := by
  simp [bufRead, h]

/-- After accept the byte stands at the old cursor and every other byte reads as before. -/
theorem bufRead_accept (b : Byte) (s : State) (i : Nat) :
    bufRead (accept b s) i = if i = s.cur.toNat then b else bufRead s i := by
  simp only [bufRead, accept_buf, accept_epoch, Memory.lookup_write]
  split <;> rfl

@[simp] theorem bufTake_length (s : State) (n : Nat) : (bufTake s n).length = n := by simp [bufTake]

@[simp] theorem bufTake_zero (s : State) : bufTake s 0 = [] := rfl

theorem bufTake_succ (s : State) (n : Nat) : bufTake s (n + 1) = bufTake s n ++ [bufRead s n] := by
  simp [bufTake, List.range_succ]

theorem bufTake_congr {s t : State} {n : Nat} (h : ∀ i < n, bufRead t i = bufRead s i) : bufTake t n = bufTake s n :=
  List.map_congr_left fun i hi => h i (List.mem_range.mp hi)

/-- The bytes below the cursor are those of before the accept. -/
theorem bufTake_accept {s : State} {n : Nat} (b : Byte) (h : n ≤ s.cur.toNat) :
    bufTake (accept b s) n = bufTake s n :=
  bufTake_congr fun i hi => by rw [bufRead_accept, if_neg (by omega)]

/-- The frame with its newest byte. -/
theorem bufTake_accept_succ (b : Byte) (s : State) :
    bufTake (accept b s) (s.cur.toNat + 1) = bufTake s s.cur.toNat ++ [b] := by
  rw [bufTake_succ, bufTake_accept b le_rfl, bufRead_accept, if_pos rfl]

/-! ## Recovery -/

/-- A diagnostic, then the response: the parser recovers and the error sink, if attached, has had the event. -/
theorem diagnose_recovers (k : ErrorKind) (d : BitVec 17) (s : State) :
    RecoveredTo s (respondOk (diagnose k d s)) (ifAttached s.errAtt (.error ⟨k, contextOf d s⟩) ++ [okResponse]) := by
  simp [RecoveredTo, EmptyParser, SameOutsideParser, ifAttached, okResponse]

/-- A delivery, then abort and the response. -/
theorem deliver_recovers (n : Half) (s : State) :
    RecoveredTo s (respondOk (abort (deliver n s)))
      (ifAttached s.pktAtt (.packet ⟨n, bufTake s n.toNat⟩) ++ [okResponse]) := by
  simp [RecoveredTo, EmptyParser, SameOutsideParser, ifAttached, okResponse]

/-- Accepting a byte changes nothing outside the parser. -/
theorem RecoveredTo.of_accept {b : Byte} {s t : State} {outs : List Output} (h : RecoveredTo (accept b s) t outs) :
    RecoveredTo s t outs := h

/-! ## The parser state code -/

@[simp] theorem ofCode_code (p : ParserState) : ParserState.ofCode p.code = some p := by cases p <;> decide

theorem ofCode_eq_none {c : BitVec 3} : ParserState.ofCode c = none ↔ c = 6#3 ∨ c = 7#3 := by
  revert c; decide

theorem ofCode_eq_some {c : BitVec 3} {p : ParserState} : ParserState.ofCode c = some p ↔ c = p.code := by
  cases p <;> revert c <;> decide

/-- On an open block in parser state p the invariant of R31 is that state's row. -/
theorem consistent_open {s : State} {p : ParserState} (ho : s.opened = true) (hp : s.state = p.code) :
    consistent s = openConsistent s p := by
  simp [consistent, ho, hp]

theorem consistent_closed {s : State} (ho : s.opened = false) : consistent s = closedConsistent s := by
  simp [consistent, ho]

/-- The parts of the row of R31 for an open block. -/
theorem openConsistent_iff {s : State} {p : ParserState} :
    openConsistent s p = true ↔
      13 ≤ s.cap.toNat ∧ s.cap.toNat ≤ s.maxCapacity ∧ Memory.listedBelow s.buf s.cur.toNat = true ∧
        rowHolds s p = true := by
  simp [openConsistent, and_assoc]

/-- A held length field: the header, the declared length and its bounds. -/
theorem lengthHeld_iff {s : State} :
    lengthHeld s = true ↔
      bufRead s 0 = Config.slash ∧ bufRead s 1 = Config.star ∧
        (Frame.declared (bufRead s 2) (bufRead s 3)).toNat = s.dl.toNat ∧ 13 ≤ s.dl.toNat ∧
        s.dl.toNat ≤ s.cap.toNat := by
  simp [lengthHeld, headerHeld, and_assoc]

/-! ## PUSH: what it answers -/

theorem execPush_closed {s : State} (b : Byte) (ho : s.opened = false) : execPush b s = raiseInvalidArg s := by
  simp [execPush, ho]

/-- On an open block that meets R31, PUSH runs the case of its parser state. -/
theorem execPush_open {s : State} {p : ParserState} (b : Byte) (ho : s.opened = true) (hp : s.state = p.code)
    (hc : consistent s = true) : execPush b s = .next (respondOk (pushIn b s p)) := by
  rw [consistent_open ho hp] at hc
  simp [execPush, ho, hp, hc]

/-- PUSH in full: a closed block, an invalid state, the case of the parser state, or a refused launch state. -/
theorem execPush_cases (b : Byte) (s : State) :
    (s.opened = false ∧ execPush b s = raiseInvalidArg s) ∨
    (s.opened = true ∧ ParserState.ofCode s.state = none ∧ execPush b s = .next (respondOk (internalError s))) ∨
    (∃ p : ParserState, s.opened = true ∧ s.state = p.code ∧ openConsistent s p = true ∧
      execPush b s = .next (respondOk (pushIn b s p))) ∨
    (∃ p : ParserState, s.opened = true ∧ s.state = p.code ∧ openConsistent s p = false ∧
      execPush b s = .refused .inconsistentLaunchState) := by
  cases ho : s.opened with
  | false => exact .inl ⟨rfl, execPush_closed b ho⟩
  | true =>
    right
    cases hp : ParserState.ofCode s.state with
    | none => exact .inl ⟨rfl, rfl, by simp [execPush, ho, hp]⟩
    | some p =>
      right
      cases hc : openConsistent s p with
      | true => exact .inl ⟨p, rfl, ofCode_eq_some.mp hp, hc, by simp [execPush, ho, hp, hc]⟩
      | false => exact .inr ⟨p, rfl, ofCode_eq_some.mp hp, hc, by simp [execPush, ho, hp, hc]⟩

/-! ## The step -/

@[simp] theorem consistent_withInputs (rest : List Input) (s : State) :
    consistent (withInputs rest s) = consistent s := rfl

@[simp] theorem launchable_withInputs (rest : List Input) (s : State) :
    launchable (withInputs rest s) = launchable s := rfl

@[simp] theorem launchable_respond (r : Status) (d : Word) (s : State) : launchable (respond r d s) = launchable s := rfl

@[simp] theorem launchable_setHcrc (v : Word) (s : State) : launchable (setHcrc v s) = launchable s := rfl

/-- A launch state meets R31 or has STATE = 6 or 7. -/
theorem launchable_iff {s : State} : launchable s = true ↔ (s.state = 6#3 ∨ s.state = 7#3) ∨ consistent s = true := by
  rw [launchable, Bool.or_eq_true, Option.isNone_iff_eq_none, ofCode_eq_none]

theorem launchable_of_consistent {s : State} (h : consistent s = true) : launchable s = true :=
  launchable_iff.mpr (.inr h)

/-- Any other state has a STATE code of 0..5 and breaks R31. -/
theorem not_launchable_iff {s : State} : launchable s = false ↔ s.state.toNat ≤ 5 ∧ consistent s = false := by
  have hc : ∀ c : BitVec 3, ¬ (c = 6#3 ∨ c = 7#3) ↔ c.toNat ≤ 5 := by decide
  rw [← Bool.not_eq_true, launchable_iff, not_or, hc, Bool.not_eq_true]

theorem fromLaunchState_of {s : State} (r : Result) (h : launchable s = true) : fromLaunchState s r = r := if_pos h

theorem fromLaunchState_refuses {s : State} (r : Result) (h : launchable s = false) :
    fromLaunchState s r = .refused .inconsistentLaunchState := by
  simp [fromLaunchState, h]

theorem step_idle {s : State} (hl : launchable s = true) (h : s.inputs = []) : step s = .next s := by
  simp [step, h, fromLaunchState_of _ hl, idle]

theorem step_command {s : State} {w : Word} {rest : List Input} (hl : launchable s = true)
    (h : s.inputs = .command w :: rest) : step s = runWord w (withInputs rest s) := by
  simp [step, h, fromLaunchState_of _ hl]

/-- A step in full: a hardware reset; a refused launch state; or, from a launch state, nothing or one command word. -/
theorem step_cases (s : State) :
    (∃ rest, s.inputs = .reset :: rest ∧ step s = .next (hardwareReset (withInputs rest s))) ∨
    ((∀ rest, s.inputs ≠ .reset :: rest) ∧ launchable s = false ∧ step s = .refused .inconsistentLaunchState) ∨
    (launchable s = true ∧ s.inputs = [] ∧ step s = .next s) ∨
    (launchable s = true ∧ ∃ w rest, s.inputs = .command w :: rest ∧ step s = runWord w (withInputs rest s)) := by
  cases hl : launchable s <;> rcases hi : s.inputs with _ | ⟨_ | _, rest⟩ <;>
    simp [step, hi, takeReset, idle, fromLaunchState, hl]

theorem step_reset {s : State} {rest : List Input} (h : s.inputs = .reset :: rest) :
    step s = .next (hardwareReset (withInputs rest s)) := by
  simp [step, h, takeReset]

theorem runWord_ok {w : Word} {i : Instr} (s : State) (h : decode w = .ok i) : runWord w s = exec i s := by
  simp [runWord, h]

theorem runWord_error {w : Word} {e : IllegalWord} (s : State) (h : decode w = .error e) :
    runWord w s = raiseInvalidArg s := by
  simp [runWord, h, illegalWord]

theorem pushAll_cons_next {b : Byte} {s t : State} (bs : List Byte) (h : exec (.push b) s = .next t) :
    pushAll (b :: bs) s = pushAll bs t := by
  simp [pushAll, h]

/-- Two strings of bytes pushed one after the other. -/
theorem pushAll_append {s t : State} {as : List Byte} (bs : List Byte) (h : pushAll as s = .next t) :
    pushAll (as ++ bs) s = pushAll bs t := by
  induction as generalizing s with
  | nil => cases h; rfl
  | cons a as ih =>
    simp only [List.cons_append, pushAll] at *
    split at h
    · exact ih h
    · exact absurd h (by simp_all)

end Sys2Proof.Machine
end

