-- ==== Sys2Proof/Laws/PerInstr.lean ====
section
/-! SUPPORT. What holds of every command as syntax, one lemma per constructor: its word is well-formed (spec R87), and
its opcode is the one the word's op field selects. -/

namespace Sys2Proof.Laws.EncodedWord

/-- The word of a command is well-formed, and its fields are the command's. -/
def Statement (i : Instr) : Prop :=
  wellFormedWord (encode i) = true ∧ Opcode.ofCode (opField (encode i)) = some i.opcode ∧
    rsvField (encode i) = 0#8 ∧ immField (encode i) = i.imm16

theorem opField_commandWord (op rsv : Byte) (imm : Half) : opField (commandWord op rsv imm) = op := by
  ext i hi
  simp only [opField, commandWord, BitVec.getElem_extractLsb', BitVec.getLsbD_append]
  simp [show ¬ (24 + i < 16) by omega, show ¬ (24 + i - 16 < 8) by omega, show 24 + i - 16 - 8 = i by omega,
    ← BitVec.getLsbD_eq_getElem]

theorem rsvField_commandWord (op rsv : Byte) (imm : Half) : rsvField (commandWord op rsv imm) = rsv := by
  ext i hi
  simp only [rsvField, commandWord, BitVec.getElem_extractLsb', BitVec.getLsbD_append]
  simp [show ¬ (16 + i < 16) by omega, show 16 + i - 16 = i by omega, hi, ← BitVec.getLsbD_eq_getElem]

theorem immField_commandWord (op rsv : Byte) (imm : Half) : immField (commandWord op rsv imm) = imm := by
  ext i hi
  simp only [immField, commandWord, BitVec.getElem_extractLsb', BitVec.getLsbD_append]
  simp [hi, ← BitVec.getLsbD_eq_getElem]

theorem highOperand_byteImm (b : Byte) : highOperand (byteImm b) = 0#8 := by
  ext i hi
  simp [highOperand, byteImm, BitVec.getElem_extractLsb', BitVec.getLsbD_setWidth]

/-- A command whose imm16 has its format's must-be-zero bits 0 meets the statement. -/
theorem of_format {i : Instr} (h : i.opcode.format.mustBeZeroHolds i.imm16 = true) : Statement i := by
  have hop : Opcode.ofCode (opField (encode i)) = some i.opcode := by
    rw [encode, opField_commandWord]
    cases i.opcode <;> decide
  have hrsv : rsvField (encode i) = 0#8 := rsvField_commandWord _ _ _
  have himm : immField (encode i) = i.imm16 := immField_commandWord _ _ _
  exact ⟨by simp [wellFormedWord, opAssigned, reservedIsZero, operandBitsAreZero, hop, hrsv, himm, h], hop, hrsv, himm⟩

theorem openWith (cap : Half) : Statement (.openWith cap) := of_format rfl

theorem close : Statement .close := of_format rfl

theorem push (b : Byte) : Statement (.push b) :=
  of_format (by simp [Instr.opcode, Opcode.format, Format.mustBeZeroHolds, Instr.imm16, highOperand_byteImm])

theorem pktAttach : Statement .pktAttach := of_format rfl

theorem pktDetach : Statement .pktDetach := of_format rfl

theorem errAttach : Statement .errAttach := of_format rfl

theorem errDetach : Statement .errDetach := of_format rfl

theorem crcCreate : Statement .crcCreate := of_format rfl

theorem crcUpdate (b : Byte) : Statement (.crcUpdate b) :=
  of_format (by simp [Instr.opcode, Opcode.format, Format.mustBeZeroHolds, Instr.imm16, highOperand_byteImm])

theorem crcFinal : Statement .crcFinal := of_format rfl

end Sys2Proof.Laws.EncodedWord
end

