-- ==== Sys2Proof/Tests/Slice0.lean ====
section
/-! SUPPORT. The model's own tests. Expected values are those of 95_test_vectors.md and of the examples in the rules, by
the name given in each comment; words are written out from the fields of R85 and the opcodes of R86. Then a witness for
the hypotheses of every statement that has any, one per clause. -/

namespace Sys2Proof.Tests

open Sys2Proof Sys2Proof.Machine

/-! ## Helpers -/

/-- The cells of a buffer that holds these bytes from index 0. -/
def cells (bytes : List Byte) : List Host.Cell := (List.range bytes.length).zip bytes

/-- A freshly opened parser: MAX_CAPACITY 64, CAP 64, both sinks attached. -/
def fresh : State := { State.resetWith 64 with opened := true, cap := 64#16, pktAtt := true, errAtt := true }

/-- An open parser part-way through a frame. -/
def mid (p : ParserState) (dl : Half) (bytes : List Byte) : State :=
  { fresh with state := p.code, cur := BitVec.ofNat 16 bytes.length, dl := dl, buf := cells bytes }

/-- Some fact about the next state; false if there is none. -/
def nextHas (r : Result) (p : State → Bool) : Bool :=
  match r with
  | .next t => p t
  | .fault _ => false
  | .refused _ => false

/-- STATE, CUR and DL. -/
def parserIs (t : State) (p : ParserState) (cur dl : Half) : Bool :=
  t.state == p.code && t.cur == cur && t.dl == dl

/-- F0 of 95_test_vectors.md. -/
def f0 : List Byte :=
  [0x2F#8, 0x2A#8, 0x00#8, 0x00#8, 0x41#8, 0x42#8, 0x43#8, 0xE5#8, 0x04#8, 0x1F#8, 0x31#8, 0x2A#8, 0x2F#8]

/-- F1 of 95_test_vectors.md. -/
def f1 : List Byte :=
  [0x2F#8, 0x2A#8, 0x02#8, 0x00#8, 0x01#8, 0x02#8, 0x03#8, 0x48#8, 0x69#8, 0x01#8, 0xD0#8, 0x69#8, 0x79#8, 0x2A#8,
    0x2F#8]

/-- "Hello, World!" (R118). -/
def hello : List Byte :=
  [0x48#8, 0x65#8, 0x6C#8, 0x6C#8, 0x6F#8, 0x2C#8, 0x20#8, 0x57#8, 0x6F#8, 0x72#8, 0x6C#8, 0x64#8, 0x21#8]

/-! ## WellFormed: an ill-formed word for each check -/

/-- V-ENC-1. -/
theorem test_unassigned_op_is_ill_formed : opAssigned 0x00000000#32 = false ∧ wellFormedWord 0x00000000#32 = false := by
  decide

/-- V-ENC-7: OPEN 64 with rsv = 0x01. -/
theorem test_reserved_bits_are_ill_formed :
    reservedIsZero 0x01010040#32 = false ∧ wellFormedWord 0x01010040#32 = false := by decide

/-- V-ENC-9: PUSH with imm16[15:8] = 0x01. -/
theorem test_push_high_operand_is_ill_formed :
    operandBitsAreZero 0x03000100#32 = false ∧ wellFormedWord 0x03000100#32 = false := by decide

/-- V-ENC-13: CRC_CREATE with imm16 = 0x8000. -/
theorem test_operand_of_no_operand_command_is_ill_formed :
    operandBitsAreZero 0x10008000#32 = false ∧ wellFormedWord 0x10008000#32 = false := by decide

/-! ## Decode: every constructor from a word written out by its fields (op, rsv, imm16) -/

/-- op 0x01, imm16 = 0x0040: OPEN 64. -/
theorem test_decode_open : decode (0x01#8 ++ 0x00#8 ++ 0x0040#16) = .ok (.openWith 64#16) := by decide

/-- op 0x02: CLOSE. -/
theorem test_decode_close : decode (0x02#8 ++ 0x00#8 ++ 0x0000#16) = .ok .close := by decide

/-- op 0x03, imm16[7:0] = 0x2F: PUSH '/'. -/
theorem test_decode_push : decode (0x03#8 ++ 0x00#8 ++ 0x002F#16) = .ok (.push 0x2F#8) := by decide

/-- op 0x04: PKT_ATTACH. -/
theorem test_decode_pkt_attach : decode (0x04#8 ++ 0x00#8 ++ 0x0000#16) = .ok .pktAttach := by decide

/-- op 0x05: PKT_DETACH. -/
theorem test_decode_pkt_detach : decode (0x05#8 ++ 0x00#8 ++ 0x0000#16) = .ok .pktDetach := by decide

/-- op 0x06: ERR_ATTACH. -/
theorem test_decode_err_attach : decode (0x06#8 ++ 0x00#8 ++ 0x0000#16) = .ok .errAttach := by decide

/-- op 0x07: ERR_DETACH. -/
theorem test_decode_err_detach : decode (0x07#8 ++ 0x00#8 ++ 0x0000#16) = .ok .errDetach := by decide

/-- op 0x10: CRC_CREATE. -/
theorem test_decode_crc_create : decode (0x10#8 ++ 0x00#8 ++ 0x0000#16) = .ok .crcCreate := by decide

/-- op 0x11, imm16[7:0] = 0x48: CRC_UPDATE 'H'. -/
theorem test_decode_crc_update : decode (0x11#8 ++ 0x00#8 ++ 0x0048#16) = .ok (.crcUpdate 0x48#8) := by decide

/-- op 0x12: CRC_FINAL. -/
theorem test_decode_crc_final : decode (0x12#8 ++ 0x00#8 ++ 0x0000#16) = .ok .crcFinal := by decide

/-- The illegal words V-ENC-1 to V-ENC-14, each rejected. -/
theorem test_decode_rejects :
    [0x00000000#32, 0x08000000#32, 0x0F000000#32, 0x13000000#32, 0x20000000#32, 0xFF000000#32, 0x01010040#32,
      0x03FF002F#32, 0x03000100#32, 0x0300FFFF#32, 0x11000100#32, 0x12000001#32, 0x10008000#32, 0x04000001#32].all
      (fun w => (decode w).toOption == none) = true := by decide

/-- The assembler examples of R95, as encodings. -/
theorem test_encode :
    encode (.openWith 64#16) = 0x01000040#32 ∧ encode (.push 0xFF#8) = 0x030000FF#32 ∧
      encode (.crcUpdate 0x48#8) = 0x11000048#32 ∧ encode .crcFinal = 0x12000000#32 := by decide

/-- The table's numbering: the word of a row is its number. -/
theorem test_decode_table_word : decodeTableWord 32 0x0300002F = some (.push 0x2F#8) := by decide

/-! ## The step -/

/-- V-ENC-16: PUSH 0x41 on a closed block, placed after reset. -/
theorem test_step_runs_placed_word :
    nextHas (step (State.reset.withFetchWord 32 0x03000041)) (fun t => t.outputs == [invalidArgResponse]) = true := by
  decide

/-- V-ENC-1 at the port of an open block: INVALID_ARG, and the rest of the input still waits. -/
theorem test_step_illegal_word :
    nextHas (step { fresh with inputs := [.command 0#32, .reset] })
      (fun t => t == { fresh with inputs := [.reset], outputs := [invalidArgResponse] }) = true := by decide

/-- R220: reset of a block part-way through a frame. -/
theorem test_step_reset :
    nextHas (step { mid .readType 13#16 (f0.take 5) with inputs := [.reset], hcrc := 0#32 })
      (fun t => parserIs t .seekHeader 0#16 0#16 && !t.opened && t.hcrc == 0xFFFFFFFF#32 && !t.pktAtt) = true := by decide

/-! ## The Checksum Engine -/

/-- V-CRC-14: the four single steps from register 0. -/
theorem test_crc_step_table_entries :
    crcStep 0#32 0x01#8 = 0x77073096#32 ∧ crcStep 0#32 0x80#8 = 0xEDB88320#32 ∧ crcStep 0#32 0xFF#8 = 0x2D02EF8D#32 := by
  decide

/-- V-CRC-11: F1's checksum domain. -/
theorem test_crc_of_f1_domain : crc32 (f1.take 9 ++ [0x2A#8, 0x2F#8]) = 0x7969D001#32 := by decide +kernel

/-- V-CRC-15: the two pieces in the other order. -/
theorem test_crc_is_order_sensitive : crc32 (hello.drop 7 ++ hello.take 7) = 0x3BB68905#32 := by decide +kernel

/-- R115's example: HCRC = 0x13B53C2F. -/
theorem test_crc_create :
    nextHas (exec .crcCreate { State.reset with hcrc := 0x13B53C2F#32 }) (fun t => t.hcrc == 0xFFFFFFFF#32) = true := by
  decide

/-- V-CRC-12: the step of 'e' after 'H', on a closed block (V-CRC-17). -/
theorem test_crc_update :
    nextHas (exec (.crcUpdate 0x65#8) { State.reset with hcrc := 0x55FAD9D0#32 })
      (fun t => t.hcrc == 0xBB5EBDDA#32 && t.outputs == [okResponse]) = true := by decide

/-- R117's example: HCRC = 0x13B53C2F gives 0xEC4AC3D0 and stays. -/
theorem test_crc_final :
    nextHas (exec .crcFinal { State.reset with hcrc := 0x13B53C2F#32 })
      (fun t => t.hcrc == 0x13B53C2F#32 && t.outputs == [.response ⟨.ok, 0xEC4AC3D0#32⟩]) = true := by decide

/-! ## Lifecycle and sinks -/

/-- V-CTL-8: OPEN 20 mid-frame re-creates the parser silently and keeps ERR_ATT. -/
theorem test_open_recreates :
    nextHas (exec (.openWith 20#16) (mid .readType 13#16 (f0.take 5)))
      (fun t => parserIs t .seekHeader 0#16 0#16 && t.cap == 20#16 && t.errAtt && t.outputs == [okResponse]) = true := by
  decide

/-- V-CTL-1, V-CTL-4 and V-CTL-6: the bounds 13 and MAX_CAPACITY. -/
theorem test_open_bounds :
    nextHas (exec (.openWith 12#16) (State.resetWith 64)) (fun t => t.outputs == [invalidArgResponse]) = true ∧
      nextHas (exec (.openWith 65#16) (State.resetWith 64)) (fun t => !t.opened) = true ∧
      nextHas (exec (.openWith 65535#16) (State.resetWith 65535)) (fun t => t.opened && t.cap == 65535#16) = true := by
  decide

/-- V-CTL-9: CLOSE mid-frame. -/
theorem test_close :
    nextHas (exec .close (mid .seekHeader 0#16 [0x2F#8]))
      (fun t => !t.opened && t.cap == 0#16 && t.cur == 0#16 && t.errAtt && t.outputs == [okResponse]) = true := by decide

/-- V-CTL-10: CLOSE while closed. -/
theorem test_close_closed :
    nextHas (exec .close State.reset) (fun t => t.outputs == [invalidArgResponse]) = true := by decide

/-- V-CTL-12. -/
theorem test_pkt_attach :
    nextHas (exec .pktAttach State.reset) (fun t => t.pktAtt && !t.errAtt && !t.opened) = true := by decide

/-- V-CTL-14. -/
theorem test_pkt_detach : nextHas (exec .pktDetach fresh) (fun t => !t.pktAtt && t.errAtt) = true := by decide

/-- V-CTL-13. -/
theorem test_err_attach :
    nextHas (exec .errAttach { State.reset with pktAtt := true }) (fun t => t.pktAtt && t.errAtt) = true := by decide

/-- V-CTL-15. -/
theorem test_err_detach : nextHas (exec .errDetach fresh) (fun t => t.pktAtt && !t.errAtt) = true := by decide

/-! ## PUSH -/

/-- V-PSH-5: the second byte is '/' again. -/
theorem test_push_reexamined :
    nextHas (exec (.push 0x2F#8) (mid .seekHeader 0#16 [0x2F#8]))
      (fun t => parserIs t .seekHeader 1#16 0#16 && t.outputs == [headerNotFoundEvent, okResponse]) = true := by decide

/-- V-PSH-13: the length field FFFF gives L = 65548, reported in 17 bits. -/
theorem test_push_longest_length :
    nextHas (exec (.push 0xFF#8) (mid .readLength 0#16 [0x2F#8, 0x2A#8, 0xFF#8]))
      (fun t => parserIs t .seekHeader 0#16 0#16 &&
        t.outputs == [.error ⟨.invalidPacket, ⟨1#3, 4#16, 65548#17, [0x2F#8, 0x2A#8, 0xFF#8, 0xFF#8]⟩⟩, okResponse]) =
      true := by decide

/-- V-PSH-10: L = CAP is accepted. -/
theorem test_push_length_at_capacity :
    nextHas (exec (.push 0x00#8) (mid .readLength 0#16 [0x2F#8, 0x2A#8, 0x33#8]))
      (fun t => parserIs t .readType 4#16 64#16) = true := by decide

/-- V-PSH-17: an empty body goes from the type straight to the checksum. -/
theorem test_push_empty_body :
    nextHas (exec (.push 0x43#8) (mid .readType 13#16 (f0.take 6))) (fun t => parserIs t .readChecksum 7#16 13#16) =
      true := by decide

/-- V-PSH-20: the last body byte. -/
theorem test_push_last_body_byte :
    nextHas (exec (.push 0x69#8) (mid .readBody 15#16 (f1.take 8))) (fun t => parserIs t .readChecksum 9#16 15#16) =
      true := by decide

/-- V-PSH-22: the fourth checksum byte matches. -/
theorem test_push_checksum_matches :
    nextHas (exec (.push 0x31#8) (mid .readChecksum 13#16 (f0.take 10))) (fun t => parserIs t .seekTrailer 11#16 13#16) =
      true := by decide +kernel

/-- V-PSH-24: the checksum written big-endian. -/
theorem test_push_big_endian_checksum :
    nextHas (exec (.push 0xE5#8) (mid .readChecksum 13#16 (f0.take 7 ++ [0x31#8, 0x1F#8, 0x04#8])))
      (fun t => t.outputs == [.error ⟨.invalidPacket, ⟨4#3, 11#16, 13#17,
        f0.take 7 ++ [0x31#8, 0x1F#8, 0x04#8, 0xE5#8]⟩⟩, okResponse]) = true := by decide +kernel

/-- V-PSH-26: trailer[0] is wrong. -/
theorem test_push_wrong_trailer :
    nextHas (exec (.push 0x2F#8) (mid .seekTrailer 13#16 (f0.take 11)))
      (fun t => t.cur == 0#16 &&
        t.outputs == [.error ⟨.invalidPacket, ⟨5#3, 12#16, 13#17, f0.take 11 ++ [0x2F#8]⟩⟩, okResponse]) = true := by
  decide +kernel

/-- V-PSH-29: F1 is delivered. -/
theorem test_push_delivers :
    nextHas (exec (.push 0x2F#8) (mid .seekTrailer 15#16 (f1.take 14)))
      (fun t => parserIs t .seekHeader 0#16 0#16 && t.outputs == [.packet ⟨15#16, f1⟩, okResponse]) = true := by
  decide +kernel

/-- V-PSH-32: STATE = 6. -/
theorem test_push_internal_error :
    nextHas (exec (.push 0x2F#8) { mid .readType 13#16 (f0.take 5) with state := 6#3 })
      (fun t => parserIs t .seekHeader 0#16 0#16 &&
        t.outputs == [.error ⟨.internalError, ⟨6#3, 5#16, 13#17, f0.take 5⟩⟩, okResponse]) = true := by decide

/-! ## The assembler -/

/-- R95: `PUSH '/'` with a comment. -/
theorem test_assemble_push :
    Asm.assembleWords ['P', 'U', 'S', 'H', ' ', '\'', '/', '\'', ' ', ';', 'x'] = .ok [0x0300002F#32] := by decide

/-- R95: a byte operand out of range is an assembler error. -/
theorem test_assemble_out_of_range :
    Asm.assembleWords ['P', 'U', 'S', 'H', ' ', '0', 'x', '1', '0', '0'] = .error .outOfRange := by decide

/-- R96 and program P2: `FRAME 'A','B','C',""` is F0. -/
theorem test_assemble_frame :
    Asm.assembleLine ['F', 'R', 'A', 'M', 'E', ' ', '\'', 'A', '\'', ',', '6', '6', ',', ' ', '0', 'x', '4', '3', ',',
      '"', '"'] = .ok (f0.map .push) := by decide +kernel

/-! ## Witnesses: the hypotheses of each statement are met -/

theorem witness_EncodeOfDecode : decode 0x01000040#32 = .ok (.openWith 64#16) := by decide

theorem witness_WellFormedWords :
    decode 0x030000FF#32 = .ok (.push 0xFF#8) ∧ decode 0x110000FF#32 = .ok (.crcUpdate 0xFF#8) ∧
      decode 0x0100FFFF#32 = .ok (.openWith 0xFFFF#16) := by decide

theorem witness_IllegalWord :
    wellFormedWord 0x01000000#32 = true ∧
      (0x08 ≤ (0x08000000#32 : Word).toNat / 2 ^ 24 ∧ (0x0F000000#32 : Word).toNat / 2 ^ 24 ≤ 0x0F) ∧
      0x13 ≤ (0x13000000#32 : Word).toNat / 2 ^ 24 ∧
      (0x01010040#32 : Word).toNat / 2 ^ 16 % 2 ^ 8 ≠ 0 ∧
      ((0x03000100#32 : Word).toNat / 2 ^ 24 ∈ [0x03, 0x11] ∧ (0x03000100#32 : Word).toNat / 2 ^ 8 % 2 ^ 8 ≠ 0) ∧
      ((0x12000001#32 : Word).toNat / 2 ^ 24 ∈ [0x02, 0x04, 0x05, 0x06, 0x07, 0x10, 0x12] ∧
        (0x12000001#32 : Word).toNat % 2 ^ 16 ≠ 0) ∧
      launchable (placeCommand 0#32 fresh) = true ∧
      (placeCommand 0#32 fresh).inputs = .command 0#32 :: [] ∧ wellFormedWord 0#32 = false := by decide

theorem witness_StepRunsTheDecodedCommand :
    launchable (placeCommand 0x04000000#32 fresh) = true ∧
      launchable (placeCommand 0x04000000#32 { fresh with state := 7#3 }) = true ∧
      (placeCommand 0x04000000#32 fresh).inputs = .command 0x04000000#32 :: [] ∧
      decode 0x04000000#32 = .ok .pktAttach := by decide

theorem witness_BlockWithoutCommand : launchable fresh = true ∧ fresh.inputs = [] := by decide

theorem witness_PlacedWord :
    launchable State.reset = true ∧ decodeTableWord 32 0x01000040 = some (.openWith 64#16) := by decide

theorem witness_HardwareReset : ({ fresh with inputs := [.reset] } : State).inputs = .reset :: [] := by decide

theorem witness_OneChangedByte : (0x00#8 : Byte) ≠ 0x80#8 := by decide

theorem witness_CrcFinal : ∃ t, exec .crcFinal fresh = .next t := ⟨_, rfl⟩

theorem witness_CrcUpdatesRun :
    launchable { fresh with inputs := [.command 0x11000048#32, .command 0x11000065#32, .reset] } = true ∧
    ({ fresh with inputs := [.command 0x11000048#32, .command 0x11000065#32, .reset] } : State).inputs =
      [0x48#8, 0x65#8].map (fun b => .command (encode (.crcUpdate b))) ++ [.reset] := by decide

theorem witness_PushFirstHeaderByte :
    fresh.opened = true ∧ consistent fresh = true ∧ fresh.state = 0#3 ∧ fresh.cur = 0#16 := by decide

theorem witness_PushSecondHeaderByte :
    let s := mid .seekHeader 0#16 [0x2F#8]
    s.opened = true ∧ consistent s = true ∧ s.state = 0#3 ∧ s.cur = 1#16 ∧ (0x41#8 : Byte) ≠ 0x2A#8 ∧
      (0x2F#8 : Byte) ≠ 0x2A#8 := by decide

/-- The run of one byte 0x2F, and of two. -/
theorem witness_PushMismatchedSecondByte :
    (fresh.opened = true ∧ consistent fresh = true ∧ fresh.state = 0#3 ∧ fresh.cur = 0#16 ∧ 1 ≤ 1 ∧ 1 ≤ 2) ∧
    (let s := mid .seekHeader 0#16 [0x2F#8];
      s.opened = true ∧ consistent s = true ∧ s.state = 0#3 ∧ s.cur = 1#16 ∧ (0x41#8 : Byte) ≠ 0x2A#8 ∧
        (0x41#8 : Byte) ≠ 0x2F#8 ∧ (0x2F#8 : Byte) ≠ 0x2A#8) := by decide

theorem witness_PushFirstLengthByte :
    let s := mid .readLength 0#16 (f0.take 2)
    s.opened = true ∧ consistent s = true ∧ s.state = 1#3 ∧ s.cur = 2#16 := by decide

/-- L = CAP = 64 is accepted, L = 65 rejected. -/
theorem witness_PushSecondLengthByte :
    (let s := mid .readLength 0#16 [0x2F#8, 0x2A#8, 0x33#8];
      s.opened = true ∧ consistent s = true ∧ s.state = 1#3 ∧ s.cur = 3#16 ∧
        64 = 13 + ((bufRead s 2).toNat + 256 * (0#8 : Byte).toNat) ∧ 64 ≤ s.cap.toNat) ∧
    (let s := mid .readLength 0#16 [0x2F#8, 0x2A#8, 0x34#8];
      s.opened = true ∧ consistent s = true ∧ s.state = 1#3 ∧ s.cur = 3#16 ∧
        65 = 13 + ((bufRead s 2).toNat + 256 * (0#8 : Byte).toNat) ∧ s.cap.toNat < 65) := by decide

theorem witness_PushTypeByte :
    (let s := mid .readType 13#16 (f0.take 4); s.opened = true ∧ consistent s = true ∧ s.state = 2#3 ∧ s.cur = 4#16) ∧
    (let s := mid .readType 13#16 (f0.take 5); s.opened = true ∧ consistent s = true ∧ s.state = 2#3 ∧ s.cur = 5#16) ∧
    (let s := mid .readType 13#16 (f0.take 6);
      s.opened = true ∧ consistent s = true ∧ s.state = 2#3 ∧ s.cur = 6#16 ∧ s.dl = 13#16) ∧
    (let s := mid .readType 15#16 (f1.take 6);
      s.opened = true ∧ consistent s = true ∧ s.state = 2#3 ∧ s.cur = 6#16 ∧ s.dl ≠ 13#16) := by decide

theorem witness_PushBodyByte :
    (let s := mid .readBody 15#16 (f1.take 7);
      s.opened = true ∧ consistent s = true ∧ s.state = 3#3 ∧ s.cur = 7#16 ∧ s.cur.toNat + 7 < s.dl.toNat ∧
        [0x48#8].length + 13 < s.dl.toNat ∧ [0x48#8, 0x69#8].length + 13 = s.dl.toNat) ∧
    (let s := mid .readBody 15#16 (f1.take 8);
      s.opened = true ∧ consistent s = true ∧ s.state = 3#3 ∧ s.cur.toNat + 7 = s.dl.toNat) := by decide

theorem witness_PushEarlierChecksumByte :
    let s := mid .readChecksum 13#16 (f0.take 9)
    s.opened = true ∧ consistent s = true ∧ s.state = 4#3 ∧ s.cur.toNat + 3 < s.dl.toNat := by decide

theorem witness_PushLastChecksumByte :
    let s := mid .readChecksum 13#16 (f0.take 10)
    s.opened = true ∧ consistent s = true ∧ s.state = 4#3 ∧ s.cur.toNat + 3 = s.dl.toNat ∧
      le32 (bufRead s (s.dl.toNat - 6)) (bufRead s (s.dl.toNat - 5)) (bufRead s (s.dl.toNat - 4)) 0x31#8 =
        crc32 (bufTake s (s.dl.toNat - 6) ++ [0x2A#8, 0x2F#8]) ∧
      le32 (bufRead s (s.dl.toNat - 6)) (bufRead s (s.dl.toNat - 5)) (bufRead s (s.dl.toNat - 4)) 0x30#8 ≠
        crc32 (bufTake s (s.dl.toNat - 6) ++ [0x2A#8, 0x2F#8]) := by decide +kernel

theorem witness_PushTrailer :
    (let s := mid .seekTrailer 13#16 (f0.take 11);
      s.opened = true ∧ consistent s = true ∧ s.state = 5#3 ∧ s.cur.toNat + 2 = s.dl.toNat) ∧
    (let s := mid .seekTrailer 13#16 (f0.take 12);
      s.opened = true ∧ consistent s = true ∧ s.state = 5#3 ∧ s.cur.toNat + 1 = s.dl.toNat) := by decide +kernel

theorem witness_PushInAnInvalidState :
    (let s := ({ fresh with state := 6#3 } : State); s.opened = true ∧ s.state = 6#3) ∧
    (let s := ({ fresh with state := 7#3 } : State); s.opened = true ∧ s.state = 7#3) ∧ fresh.Inv := by decide

theorem witness_PushStoresOnlyAtTheCursor :
    ∃ t, fresh.opened = true ∧ consistent fresh = true ∧ exec (.push 0x2F#8) fresh = .next t :=
  ⟨_, by decide, by decide, execPush_open 0x2F#8 rfl (p := .seekHeader) rfl (by decide)⟩

/-- A diagnostic that leaves CUR = 0, one that leaves CUR = 1, and a delivery. -/
theorem witness_EveryEventEndsTheFrame :
    nextHas (exec (.push 0x41#8) (mid .seekHeader 0#16 [0x2F#8]))
        (fun t => t.cur == 0#16 && headerNotFoundEvent.isEvent && t.outputs == [headerNotFoundEvent, okResponse]) =
      true ∧
    nextHas (exec (.push 0x2F#8) (mid .seekHeader 0#16 [0x2F#8]))
        (fun t => t.cur == 1#16 && t.outputs == [headerNotFoundEvent, okResponse]) = true ∧
    nextHas (exec (.push 0x2F#8) (mid .seekTrailer 13#16 (f0.take 12)))
        (fun t => Output.isEvent (.packet ⟨13#16, f0⟩) && t.outputs == [.packet ⟨13#16, f0⟩, okResponse]) = true := by
  decide +kernel

/-- HeaderNotFoundYet, the four causes of InvalidPacket, and InternalError with each code. -/
theorem witness_DiagnosticsHaveOnlyTheirCauses :
    nextHas (exec (.push 0x41#8) (mid .seekHeader 0#16 [0x2F#8]))
        (fun t => t.outputs == [headerNotFoundEvent, okResponse]) = true ∧
    nextHas (exec (.push 0x00#8) (mid .readLength 0#16 [0x2F#8, 0x2A#8, 0x34#8]))
        (fun t => t.outputs == [.error ⟨.invalidPacket, ⟨1#3, 4#16, 65#17, [0x2F#8, 0x2A#8, 0x34#8, 0x00#8]⟩⟩,
          okResponse]) = true ∧
    nextHas (exec (.push 0x30#8) (mid .readChecksum 13#16 (f0.take 10)))
        (fun t => t.outputs == [.error ⟨.invalidPacket, ⟨4#3, 11#16, 13#17, f0.take 10 ++ [0x30#8]⟩⟩, okResponse]) =
      true ∧
    nextHas (exec (.push 0x2B#8) (mid .seekTrailer 13#16 (f0.take 11)))
        (fun t => t.outputs == [.error ⟨.invalidPacket, ⟨5#3, 12#16, 13#17, f0.take 11 ++ [0x2B#8]⟩⟩, okResponse]) =
      true ∧
    nextHas (exec (.push 0x2A#8) (mid .seekTrailer 13#16 (f0.take 12)))
        (fun t => t.outputs == [.error ⟨.invalidPacket, ⟨5#3, 13#16, 13#17, f0.take 12 ++ [0x2A#8]⟩⟩, okResponse]) =
      true ∧
    nextHas (exec (.push 0x2A#8) { fresh with state := 6#3 })
        (fun t => t.outputs == [.error ⟨.internalError, ⟨6#3, 0#16, 0#17, []⟩⟩, okResponse]) = true ∧
    nextHas (exec (.push 0x2A#8) { fresh with state := 7#3 })
        (fun t => t.outputs == [.error ⟨.internalError, ⟨7#3, 0#16, 0#17, []⟩⟩, okResponse]) = true := by
  decide +kernel

theorem witness_PushOnAnOpenBlockNeverStalls :
    (fresh.opened = true ∧ consistent fresh = true) ∧
    (let s := ({ fresh with state := 6#3 } : State); s.opened = true ∧ s.state = 6#3) ∧
    (let s := ({ fresh with state := 7#3 } : State);
      s.opened = true ∧ s.state = 7#3 ∧ 13 ≤ s.cap.toNat ∧ s.cap.toNat ≤ s.maxCapacity) := by decide

theorem witness_NoByteIsExamined :
    (let s := mid .readLength 0#16 (f0.take 2);
      s.opened = true ∧ consistent s = true ∧ s.state = 1#3 ∧ s.cur = 2#16) ∧
    (let s := mid .readType 13#16 (f0.take 6); s.opened = true ∧ consistent s = true ∧ s.state = 2#3) ∧
    (let s := mid .readBody 15#16 (f1.take 8); s.opened = true ∧ consistent s = true ∧ s.state = 3#3) ∧
    (let s := mid .readChecksum 13#16 (f0.take 9);
      s.opened = true ∧ consistent s = true ∧ s.state = 4#3 ∧ s.cur.toNat + 3 < s.dl.toNat) := by decide

/-- U5's example: SeekHeader with CUR = 5. -/
theorem witness_InconsistentPush :
    (let s := ({ fresh with cur := 5#16 } : State);
      s.opened = true ∧ s.state.toNat ≤ 5 ∧ consistent s = false) ∧
    exec (.push 0x2F#8) { fresh with cur := 5#16 } = .refused .inconsistentLaunchState := ⟨by decide, rfl⟩

/-- U5's example with a legal word, an illegal word and no word at the port, and a closed block with CUR = 1. -/
theorem witness_InconsistentLaunchStates :
    (∀ inputs ∈ [[.command 0x10000000#32], [.command 0#32], []],
      let s := ({ fresh with cur := 5#16, inputs := inputs } : State);
      s.state.toNat ≤ 5 ∧ consistent s = false ∧ s.inputs.head? ≠ some .reset) ∧
    (let s := ({ State.reset with cur := 1#16, inputs := [.command 0x03000041#32] } : State);
      s.opened = false ∧ s.state.toNat ≤ 5 ∧ consistent s = false ∧ s.inputs.head? ≠ some .reset) ∧
    step { State.reset with cur := 1#16, inputs := [.command 0x03000041#32] } =
      .refused .inconsistentLaunchState := ⟨by decide, by decide, rfl⟩

theorem witness_Open :
    (13 ≤ (13#16 : Half).toNat ∧ (13#16 : Half).toNat ≤ fresh.maxCapacity) ∧
      (13 ≤ (64#16 : Half).toNat ∧ (64#16 : Half).toNat ≤ fresh.maxCapacity) ∧ (12#16 : Half).toNat < 13 ∧
      fresh.maxCapacity < (65#16 : Half).toNat := by decide

theorem witness_Close : fresh.opened = true ∧ State.reset.opened = false := by decide

theorem witness_DetachSilencesOneSink :
    (∃ t, ({ fresh with pktAtt := false } : State).pktAtt = false ∧
      exec (.push 0#8) { fresh with pktAtt := false } = .next t) ∧
    ∃ t, ({ fresh with errAtt := false } : State).errAtt = false ∧
      exec (.push 0#8) { fresh with errAtt := false } = .next t :=
  ⟨⟨_, rfl, execPush_open 0#8 rfl (p := .seekHeader) rfl (by decide)⟩,
    ⟨_, rfl, execPush_open 0#8 rfl (p := .seekHeader) rfl (by decide)⟩⟩

/-- A command at the port whose step answers a next state; the four causes of R191. -/
theorem witness_InvalidArg :
    (∃ t, (placeCommand 0x02000000#32 State.reset).inputs = .command 0x02000000#32 :: [] ∧
      step (placeCommand 0x02000000#32 State.reset) = .next t ∧ t.outputs.getLast? = some invalidArgResponse) ∧
    wellFormedWord 0#32 = false ∧ (decode 0x03000041#32 = .ok (.push 0x41#8) ∧ State.reset.opened = false) ∧
    (decode 0x02000000#32 = .ok .close ∧ State.reset.opened = false) ∧
    (decode 0x0100000C#32 = .ok (.openWith 12#16) ∧ (12#16 : Half).toNat < 13) ∧
    (decode 0x01000041#32 = .ok (.openWith 65#16) ∧ fresh.maxCapacity < (65#16 : Half).toNat) :=
  ⟨⟨_, rfl, rfl, by decide⟩, by decide, by decide, by decide, by decide, by decide⟩

/-- Each register of R20 in a command that changes it, and a command that writes no register of the parser. -/
theorem witness_RegistersChange :
    nextHas (exec .close fresh) (fun t => t.opened != fresh.opened && t.cap != fresh.cap) = true ∧
    nextHas (exec (.push 0x2F#8) fresh)
        (fun t => t.cur != fresh.cur && Memory.lookup t.buf 0 == some 0x2F#8 && Memory.lookup fresh.buf 0 == none) =
      true ∧
    nextHas (exec (.push 0x00#8) (mid .readLength 0#16 (f0.take 3))) (fun t => t.state == 2#3 && t.dl == 13#16) =
      true ∧
    nextHas (exec (.crcUpdate 0x00#8) fresh) (fun t => t.hcrc != fresh.hcrc) = true ∧
    nextHas (exec .pktDetach fresh) (fun t => t.pktAtt != fresh.pktAtt) = true ∧
    nextHas (exec .errDetach fresh) (fun t => t.errAtt != fresh.errAtt) = true ∧
    ∃ t, exec .crcFinal fresh = .next t :=
  ⟨by decide, by decide, by decide, by decide, by decide, by decide, _, rfl⟩

/-- A PUSH at the command port whose step puts out an event and a response. -/
theorem witness_AtMostOneEvent :
    let s := { mid .seekHeader 0#16 [0x2F#8] with inputs := [.command 0x03000041#32] }
    s.inputs = .command 0x03000041#32 :: [] ∧ decode 0x03000041#32 = .ok (.push 0x41#8) ∧ s.opened = true ∧
      nextHas (step s) (fun t => t.outputs == [headerNotFoundEvent, okResponse]) = true := by decide

theorem witness_InvariantStatesAlwaysStep : (mid .readBody 15#16 (f1.take 8)).Inv := by decide

theorem witness_AccumulatorsAreIndependent :
    (∃ t, exec .close fresh = .next t) ∧ ∃ t, exec (.crcUpdate 0#8) fresh = .next t := ⟨⟨_, rfl⟩, ⟨_, rfl⟩⟩

theorem witness_RepeatedCommands :
    (∃ t, exec (.openWith 13#16) fresh = .next t) ∧ (∃ t, exec .crcFinal fresh = .next t) ∧
      ∃ t, exec .close fresh = .next t := ⟨⟨_, rfl⟩, ⟨_, rfl⟩, ⟨_, rfl⟩⟩

theorem witness_StepKeepsTheInvariant :
    (∃ t, fresh.Inv ∧ step fresh = .next t) ∧ (mid .seekTrailer 13#16 (f0.take 12)).Inv :=
  ⟨⟨_, by decide, rfl⟩, by decide +kernel⟩

theorem witness_ResetMeetsTheInvariant : 13 ≤ 13 ∧ 65535 ≤ 65535 := by decide

theorem witness_ValidFrame :
    (fresh.opened = true ∧ consistent fresh = true ∧ fresh.state = 0#3 ∧ fresh.cur = 0#16 ∧
      Frame.valid fresh.cap f1 = true) ∧
    (let s := mid .seekHeader 0#16 [0x2F#8];
      s.opened = true ∧ consistent s = true ∧ s.state = 0#3 ∧ s.cur = 1#16 ∧ Frame.valid s.cap f0 = true) := by
  decide +kernel

/-- Program P3's noise. -/
theorem witness_FrameIsFoundAfterNoise :
    noHeaderIn [0x78#8, 0x2F#8, 0x79#8, 0x2F#8] = true ∧ strayCount 0x2F#8 [0x78#8, 0x2F#8, 0x79#8, 0x2F#8] = 2 ∧
      Frame.valid fresh.cap f1 = true := by decide +kernel

/-- The first type byte and the last body byte of F1. -/
theorem witness_ChangedTypeOrBodyByte :
    Frame.valid fresh.cap f1 = true ∧ (4 ≤ 4 ∧ 4 + 6 < f1.length ∧ f1.getD 4 0#8 ≠ 0x00#8) ∧
      (4 ≤ 8 ∧ 8 + 6 < f1.length ∧ f1.getD 8 0#8 ≠ 0x00#8) := by decide +kernel

theorem witness_FrameOverCapacity :
    let s := ({ fresh with cap := 14#16 } : State)
    s.opened = true ∧ consistent s = true ∧ s.state = 0#3 ∧ s.cur = 0#16 ∧
      [0x48#8, 0x69#8].length + 13 = s.cap.toNat + 1 := by decide

theorem witness_AssembledWords : Asm.assemble [['C', 'L', 'O', 'S', 'E']] = .ok [0x02000000#32] := by decide

/-- A list of bytes for PUSHB; the longest body with a valid frame, and the longest that FRAME takes. -/
theorem witness_PseudoInstructions :
    [0x2F#8, 0x2A#8] ≠ ([] : List Byte) ∧
    ((List.replicate 65522 0x41#8 : List Byte).length ≤ 65535 ∧
      (List.replicate 65522 0x41#8 : List Byte).length + 13 ≤ 65535) ∧
    (List.replicate 65535 0x41#8 : List Byte).length ≤ 65535 :=
  ⟨by decide, by rw [List.length_replicate]; decide, by rw [List.length_replicate]⟩

end Sys2Proof.Tests
end

section
/-! SUPPORT. What a command can answer, said once (`exec_cases`), and what PUSH leaves unchanged. -/

namespace Sys2Proof.Machine

/-! ## What a command answers -/

/-- The next states a command can answer from s, one constructor per way of answering. -/
inductive ExecAnswer (s : State) : Instr → State → Prop
  | openInvalidArg (cap : Half) (notAccepted : capacityAccepted cap s = false) :
      ExecAnswer s (.openWith cap) (respond .invalidArg 0#32 s)
  | openWith (cap : Half) (accepted : capacityAccepted cap s = true) :
      ExecAnswer s (.openWith cap) (respondOk (openParser cap s))
  | closeInvalidArg (closed : s.opened = false) : ExecAnswer s .close (respond .invalidArg 0#32 s)
  | close (opened : s.opened = true) : ExecAnswer s .close (respondOk (closeParser s))
  | pushInvalidArg (b : Byte) (closed : s.opened = false) : ExecAnswer s (.push b) (respond .invalidArg 0#32 s)
  | pushInvalidState (b : Byte) (opened : s.opened = true) (invalid : ParserState.ofCode s.state = none) :
      ExecAnswer s (.push b) (respondOk (internalError s))
  | push (b : Byte) (p : ParserState) (opened : s.opened = true) (state : s.state = p.code)
      (holds : openConsistent s p = true) : ExecAnswer s (.push b) (respondOk (pushIn b s p))
  | pktAttach : ExecAnswer s .pktAttach (respondOk (setPktAtt true s))
  | pktDetach : ExecAnswer s .pktDetach (respondOk (setPktAtt false s))
  | errAttach : ExecAnswer s .errAttach (respondOk (setErrAtt true s))
  | errDetach : ExecAnswer s .errDetach (respondOk (setErrAtt false s))
  | crcCreate : ExecAnswer s .crcCreate (respondOk (setHcrc Config.crcInit s))
  | crcUpdate (b : Byte) : ExecAnswer s (.crcUpdate b) (respondOk (setHcrc (crcStep s.hcrc b) s))
  | crcFinal : ExecAnswer s .crcFinal (respond .ok (crcFinalize s.hcrc) s)

/-- Each of these is what the command does answer. -/
theorem ExecAnswer.exec_eq {i : Instr} {s t : State} (h : ExecAnswer s i t) : exec i s = .next t := by
  cases h with
  | openInvalidArg cap hcap => simp [exec, execOpen, hcap, raiseInvalidArg]
  | openWith cap hcap => simp [exec, execOpen, hcap]
  | closeInvalidArg ho => simp [exec, execClose, ho, raiseInvalidArg]
  | close ho => simp [exec, execClose, ho]
  | pushInvalidArg b ho => exact execPush_closed b ho
  | pushInvalidState b ho hp => simp [exec, execPush, ho, hp]
  | push b p ho hp hc => simp [exec, execPush, ho, hp, hc]
  | _ => rfl

/-- A command in full: one of the answers above, or a PUSH refused on an open block that breaks the row of its parser
state. -/
theorem exec_cases (i : Instr) (s : State) :
    (∃ t, ExecAnswer s i t) ∨
    (∃ b p, i = .push b ∧ s.opened = true ∧ s.state = p.code ∧ openConsistent s p = false ∧
      exec i s = .refused .inconsistentLaunchState) := by
  cases i with
  | openWith cap =>
    cases h : capacityAccepted cap s with
    | true => exact .inl ⟨_, .openWith cap h⟩
    | false => exact .inl ⟨_, .openInvalidArg cap h⟩
  | close =>
    cases h : s.opened with
    | true => exact .inl ⟨_, .close h⟩
    | false => exact .inl ⟨_, .closeInvalidArg h⟩
  | push b =>
    rcases execPush_cases b s with ⟨ho, -⟩ | ⟨ho, hp, -⟩ | ⟨p, ho, hp, hc, -⟩ | ⟨p, ho, hp, hc, he⟩
    · exact .inl ⟨_, .pushInvalidArg b ho⟩
    · exact .inl ⟨_, .pushInvalidState b ho hp⟩
    · exact .inl ⟨_, .push b p ho hp hc⟩
    · exact .inr ⟨b, p, rfl, ho, hp, hc, he⟩
  | pktAttach => exact .inl ⟨_, .pktAttach⟩
  | pktDetach => exact .inl ⟨_, .pktDetach⟩
  | errAttach => exact .inl ⟨_, .errAttach⟩
  | errDetach => exact .inl ⟨_, .errDetach⟩
  | crcCreate => exact .inl ⟨_, .crcCreate⟩
  | crcUpdate b => exact .inl ⟨_, .crcUpdate b⟩
  | crcFinal => exact .inl ⟨_, .crcFinal⟩

/-- The inversion of a command that answers a next state. -/
theorem execAnswer_of_next {i : Instr} {s t : State} (h : exec i s = .next t) : ExecAnswer s i t := by
  rcases exec_cases i s with ⟨u, ha⟩ | ⟨_, _, -, -, -, -, hr⟩
  · cases ha.exec_eq.symm.trans h
    exact ha
  · cases hr.symm.trans h

/-- From a launch state no command is refused. -/
theorem exec_ne_refused {s : State} (hl : launchable s = true) (i : Instr) (r : Refusal) : exec i s ≠ .refused r := by
  rcases exec_cases i s with ⟨t, ha⟩ | ⟨b, p, -, ho, hp, hc, -⟩
  · simp [ha.exec_eq]
  · simp [launchable, consistent_open ho hp, hp, hc] at hl

/-- A command word from a launch state is not refused, legal or not. -/
theorem runWord_ne_refused {s : State} (hl : launchable s = true) (w : Word) (r : Refusal) :
    runWord w s ≠ .refused r := by
  rcases decode_cases w with ⟨i, hi⟩ | ⟨e, he⟩
  · rw [runWord_ok s hi]
    exact exec_ne_refused hl i r
  · simp [runWord_error s he, raiseInvalidArg]

/-! ## What PUSH leaves unchanged -/

theorem sameOutsideParser_seekFirst (b : Byte) (s : State) : SameOutsideParser s (seekFirst b s) := by
  unfold seekFirst
  split <;> simp [SameOutsideParser]

theorem sameOutsideParser_seekHeader (b : Byte) (s : State) : SameOutsideParser s (seekHeader b s) := by
  unfold seekHeader seekSecond
  split
  · exact sameOutsideParser_seekFirst b s
  · split
    · simp [SameOutsideParser]
    · exact sameOutsideParser_seekFirst b (diagnose .headerNotFoundYet (declaredDl s) s)

theorem sameOutsideParser_readLength (s : State) : SameOutsideParser s (readLength s) := by
  unfold readLength
  split
  · split <;> simp [SameOutsideParser]
  · simp [SameOutsideParser]

theorem sameOutsideParser_readType (s : State) : SameOutsideParser s (readType s) := by
  unfold readType
  split
  · split <;> simp [SameOutsideParser]
  · simp [SameOutsideParser]

theorem sameOutsideParser_readBody (s : State) : SameOutsideParser s (readBody s) := by
  unfold readBody
  split <;> simp [SameOutsideParser]

theorem sameOutsideParser_readChecksum (s : State) : SameOutsideParser s (readChecksum s) := by
  unfold readChecksum checkChecksum
  split
  · split <;> simp [SameOutsideParser]
  · simp [SameOutsideParser]

theorem sameOutsideParser_seekTrailer (b : Byte) (s : State) : SameOutsideParser s (seekTrailer b s) := by
  unfold seekTrailer
  split
  · split <;> simp [SameOutsideParser]
  · split <;> simp [SameOutsideParser]

/-- PUSH's case of a parser state changes nothing outside the parser. -/
theorem sameOutsideParser_pushIn (b : Byte) (s : State) (p : ParserState) : SameOutsideParser s (pushIn b s p) := by
  cases p with
  | seekHeader => exact sameOutsideParser_seekHeader b s
  | readLength => exact sameOutsideParser_readLength (accept b s)
  | readType => exact sameOutsideParser_readType (accept b s)
  | readBody => exact sameOutsideParser_readBody (accept b s)
  | readChecksum => exact sameOutsideParser_readChecksum (accept b s)
  | seekTrailer => exact sameOutsideParser_seekTrailer b (accept b s)

end Sys2Proof.Machine
end

section
/-! SUPPORT. The invariant of the reachable states on an empty parser, on an open block, and across an accepted byte. -/

namespace Sys2Proof.Machine

/-! ## The invariant, on an empty parser and on an open block -/

/-! The invariant reads neither the accumulators nor the attach flags, the command port or the outputs. -/

theorem inv_respond (r : Status) (d : Word) (s : State) : (respond r d s).Inv ↔ s.Inv := Iff.rfl
theorem inv_respondOk (s : State) : (respondOk s).Inv ↔ s.Inv := Iff.rfl
theorem inv_withInputs (rest : List Input) (s : State) : (withInputs rest s).Inv ↔ s.Inv := Iff.rfl
theorem inv_setPktAtt (v : Bool) (s : State) : (setPktAtt v s).Inv ↔ s.Inv := Iff.rfl
theorem inv_setErrAtt (v : Bool) (s : State) : (setErrAtt v s).Inv ↔ s.Inv := Iff.rfl
theorem inv_setHcrc (v : Word) (s : State) : (setHcrc v s).Inv ↔ s.Inv := Iff.rfl

/-- A legal MAX_CAPACITY (R7). -/
abbrev MaxCapacityLegal (s : State) : Prop :=
  Config.leastMaxCapacity ≤ s.maxCapacity ∧ s.maxCapacity ≤ Config.greatestMaxCapacity

/-- A closed block with its parser registers at 0 and no defined byte meets the invariant. -/
theorem inv_of_closed {s : State} (hm : MaxCapacityLegal s) (ho : s.opened = false) (hbuf : s.buf = [])
    (hr : closedConsistent s = true) : s.Inv := by
  refine ⟨hm, ?_, ?_, ?_⟩
  · simp [hbuf]
  · simp [hbuf]
  · rw [consistent_closed ho, hr]

/-- What the invariant says of an open block in every parser state: the bounds of MAX_CAPACITY and CAP, and that BUF is
canonical and lists exactly BUF[0..CUR). -/
structure OpenBounds (s : State) : Prop where
  opened : s.opened = true
  maxCapacity : MaxCapacityLegal s
  cap_ge : 13 ≤ s.cap.toNat
  cap_le : s.cap.toNat ≤ s.maxCapacity
  wf : Memory.wf s.buf
  within : Memory.within s.buf s.cur.toNat
  listed : Memory.listedBelow s.buf s.cur.toNat = true

/-- On an open block in parser state p the invariant is those bounds and the row of p. -/
theorem inv_iff_open {s : State} {p : ParserState} (ho : s.opened = true) (hp : s.state = p.code) :
    s.Inv ↔ OpenBounds s ∧ rowHolds s p = true := by
  rw [State.Inv, consistent_open ho hp, openConsistent_iff]
  constructor
  · rintro ⟨hm, hwf, hin, h13, hcap, hlist, hrow⟩
    exact ⟨⟨ho, hm, h13, hcap, hwf, hin, hlist⟩, hrow⟩
  · rintro ⟨⟨-, hm, h13, hcap, hwf, hin, hlist⟩, hrow⟩
    exact ⟨hm, hwf, hin, h13, hcap, hlist, hrow⟩

/-- A state of the bounds whose parser is in state p meets the invariant by the row of p. -/
theorem OpenBounds.inv {s : State} {p : ParserState} (h : OpenBounds s) (hp : s.state = p.code)
    (hrow : rowHolds s p = true) : s.Inv :=
  (inv_iff_open h.opened hp).mpr ⟨h, hrow⟩

/-- The bounds read neither STATE and DL nor anything outside the parser. -/
theorem OpenBounds.congr {s t : State} (h : OpenBounds s) (ho : t.opened = s.opened) (hcap : t.cap = s.cap)
    (hm : t.maxCapacity = s.maxCapacity) (hbuf : t.buf = s.buf) (hcur : t.cur = s.cur) : OpenBounds t :=
  ⟨ho ▸ h.opened, by rw [MaxCapacityLegal, hm]; exact h.maxCapacity, by rw [hcap]; exact h.cap_ge,
    by rw [hcap, hm]; exact h.cap_le, by rw [hbuf]; exact h.wf, by rw [hbuf, hcur]; exact h.within,
    by rw [hbuf, hcur]; exact h.listed⟩

/-- A move to parser state p needs only the row of p. -/
theorem OpenBounds.inv_setParser {s : State} {p : ParserState} (h : OpenBounds s) (hrow : rowHolds s p = true) :
    (setParser p s).Inv :=
  (h.congr (t := setParser p s) rfl rfl rfl rfl rfl).inv rfl hrow

/-- An empty SeekHeader meets the invariant. -/
theorem inv_of_empty {s : State} (ho : s.opened = true) (hm : MaxCapacityLegal s) (h13 : 13 ≤ s.cap.toNat)
    (hcap : s.cap.toNat ≤ s.maxCapacity) (hbuf : s.buf = []) (hst : s.state = 0#3) (hcur : s.cur = 0#16)
    (hdl : s.dl = 0#16) : s.Inv := by
  have h : OpenBounds s := ⟨ho, hm, h13, hcap, by simp [hbuf], by simp [hbuf], by simp [hcur]⟩
  exact h.inv (p := .seekHeader) hst (by simp [rowHolds, hcur, hdl])

/-- After a delivery and recovery the invariant holds. -/
theorem OpenBounds.inv_abort {s : State} (h : OpenBounds s) : (abort s).Inv :=
  inv_of_empty h.opened h.maxCapacity h.cap_ge h.cap_le rfl rfl rfl rfl

/-- After a diagnostic the invariant holds. -/
theorem OpenBounds.inv_diagnose {s : State} (h : OpenBounds s) (k : ErrorKind) (d : BitVec 17) : (diagnose k d s).Inv :=
  inv_of_empty h.opened h.maxCapacity h.cap_ge h.cap_le rfl rfl rfl rfl

/-! ## Accepting a byte -/

theorem accept_cur_toNat {s : State} (b : Byte) (h : s.cur.toNat < 65535) :
    (accept b s).cur.toNat = s.cur.toNat + 1 := by
  simp only [accept_cur, BitVec.toNat_add, BitVec.toNat_ofNat]
  omega

/-- The bounds after an accept: BUF lists exactly one byte more. -/
theorem OpenBounds.after_accept {s : State} (h : OpenBounds s) (b : Byte) (hcur : s.cur.toNat < 65535) :
    OpenBounds (accept b s) where
  opened := h.opened
  maxCapacity := h.maxCapacity
  cap_ge := h.cap_ge
  cap_le := h.cap_le
  wf := Memory.write_wf _ b h.wf
  within := by
    rw [accept_cur_toNat b hcur]
    exact Memory.write_within b (Memory.within_mono h.within (Nat.le_succ _)) (Nat.lt_succ_self _)
  listed := by
    rw [accept_cur_toNat b hcur]
    exact Memory.listedBelow_write b h.listed

/-- A byte below the cursor reads the same after an accept. -/
theorem bufRead_accept_below {s : State} {i : Nat} (b : Byte) (h : i < s.cur.toNat) :
    bufRead (accept b s) i = bufRead s i := by
  rw [bufRead_accept, if_neg (by omega)]

theorem headerHeld_accept {s : State} (b : Byte) (h : 2 ≤ s.cur.toNat) :
    headerHeld (accept b s) = headerHeld s := by
  simp only [headerHeld, bufRead_accept_below b (show 0 < s.cur.toNat by omega),
    bufRead_accept_below b (show 1 < s.cur.toNat by omega)]

theorem lengthHeld_accept {s : State} (b : Byte) (h : 4 ≤ s.cur.toNat) :
    lengthHeld (accept b s) = lengthHeld s := by
  simp only [lengthHeld, headerHeld_accept b (show 2 ≤ s.cur.toNat by omega),
    bufRead_accept_below b (show 2 < s.cur.toNat by omega), bufRead_accept_below b (show 3 < s.cur.toNat by omega),
    accept_dl, accept_cap]

/-- Once the checksum field has been held, accepting a byte of the trailer changes neither it nor its domain. -/
theorem checksum_accept {s : State} (b : Byte) (hdl : 6 ≤ s.dl.toNat) (h : s.dl.toNat ≤ s.cur.toNat + 2) :
    receivedChecksum (accept b s) = receivedChecksum s ∧ checksumDomain (accept b s) = checksumDomain s := by
  constructor
  · simp only [receivedChecksum, accept_dl, bufRead_accept_below b (show s.dl.toNat - 6 < s.cur.toNat by omega),
      bufRead_accept_below b (show s.dl.toNat - 5 < s.cur.toNat by omega),
      bufRead_accept_below b (show s.dl.toNat - 4 < s.cur.toNat by omega),
      bufRead_accept_below b (show s.dl.toNat - 3 < s.cur.toNat by omega)]
  · rw [checksumDomain, checksumDomain, accept_dl, bufTake_accept b (by omega)]

/-- What every case from ReadType on knows after its accept: the bounds, the cursor, and the length still held. -/
theorem OpenBounds.accept_lengthHeld {s : State} (h : OpenBounds s) (b : Byte) (hcur : 4 ≤ s.cur.toNat)
    (hdl : s.cur.toNat < s.dl.toNat) (hlen : lengthHeld s = true) :
    OpenBounds (accept b s) ∧ (accept b s).cur.toNat = s.cur.toNat + 1 ∧ lengthHeld (accept b s) = true := by
  have hlt : s.cur.toNat < 65535 := by have := s.dl.isLt; omega
  exact ⟨h.after_accept b hlt, accept_cur_toNat b hlt, (lengthHeld_accept b hcur).trans hlen⟩

end Sys2Proof.Machine
end

section
/-! SUPPORT. Every case of PUSH, every command and every step keeps the invariant (O49), which holds after reset (O48,
O11). -/

namespace Sys2Proof.Machine

/-! ## The rows of R31's table, and each case of PUSH -/

theorem rowHolds_seekHeader {s : State} :
    rowHolds s .seekHeader = true ↔ s.dl = 0#16 ∧ (s.cur = 0#16 ∨ s.cur = 1#16 ∧ bufRead s 0 = Config.slash) := by
  simp [rowHolds]

theorem rowHolds_readLength {s : State} :
    rowHolds s .readLength = true ↔ s.dl = 0#16 ∧ (s.cur = 2#16 ∨ s.cur = 3#16) ∧ headerHeld s = true := by
  simp [rowHolds, and_assoc]

theorem rowHolds_readType {s : State} :
    rowHolds s .readType = true ↔ (s.cur = 4#16 ∨ s.cur = 5#16 ∨ s.cur = 6#16) ∧ lengthHeld s = true := by
  simp [rowHolds, or_assoc]

theorem rowHolds_readBody {s : State} :
    rowHolds s .readBody = true ↔ 7 ≤ s.cur.toNat ∧ s.cur.toNat + 6 < s.dl.toNat ∧ lengthHeld s = true := by
  simp [rowHolds, and_assoc, Nat.blt_eq]

theorem rowHolds_readChecksum {s : State} :
    rowHolds s .readChecksum = true ↔
      s.dl.toNat ≤ s.cur.toNat + 6 ∧ s.cur.toNat + 2 < s.dl.toNat ∧ lengthHeld s = true := by
  simp [rowHolds, and_assoc, Nat.blt_eq]

theorem rowHolds_seekTrailer {s : State} :
    rowHolds s .seekTrailer = true ↔
      (s.cur.toNat + 2 = s.dl.toNat ∨
        s.cur.toNat + 1 = s.dl.toNat ∧ bufRead s (s.dl.toNat - 2) = Config.star) ∧
      lengthHeld s = true ∧ receivedChecksum s = crc32 (checksumDomain s) := by
  simp [rowHolds, and_assoc]

theorem dl_bounds_of_lengthHeld {s : State} (h : lengthHeld s = true) :
    13 ≤ s.dl.toNat ∧ s.dl.toNat ≤ s.cap.toNat := by
  obtain ⟨-, -, -, h13, hcap⟩ := lengthHeld_iff.mp h
  exact ⟨h13, hcap⟩

theorem headerHeld_iff {s : State} :
    headerHeld s = true ↔ bufRead s 0 = Config.slash ∧ bufRead s 1 = Config.star := by
  simp [headerHeld]

/-- With the cursor at 0 the first header byte is stored as any accepted byte is. -/
theorem seekFirst_slash {s : State} (hcur : s.cur = 0#16) : seekFirst Config.slash s = accept Config.slash s := by
  simp [seekFirst, accept, hcur]

/-- With the cursor at 1 the second header byte is stored as any accepted byte is. -/
theorem seekSecond_star {s : State} (hcur : s.cur = 1#16) :
    seekSecond Config.star s = setParser .readLength (accept Config.star s) := by
  simp [seekSecond, accept, hcur]

/-- An empty SeekHeader takes a first header byte or drops the byte (R131). -/
theorem OpenBounds.inv_seekFirst {s : State} (h : OpenBounds s) (b : Byte) (hst : s.state = 0#3)
    (hcur : s.cur = 0#16) (hdl : s.dl = 0#16) : (seekFirst b s).Inv := by
  by_cases hb : b = Config.slash
  · subst hb
    rw [seekFirst_slash hcur]
    refine (h.after_accept _ (by simp [hcur])).inv (p := .seekHeader) hst ?_
    exact rowHolds_seekHeader.mpr ⟨hdl, .inr ⟨by simp [hcur], by simp [bufRead_accept, hcur]⟩⟩
  · rw [seekFirst, if_neg hb]
    exact h.inv (p := .seekHeader) hst (rowHolds_seekHeader.mpr ⟨hdl, .inl hcur⟩)

theorem OpenBounds.inv_seekHeader {s : State} (h : OpenBounds s) (b : Byte) (hst : s.state = 0#3)
    (hrow : rowHolds s .seekHeader = true) : (seekHeader b s).Inv := by
  obtain ⟨hdl, hcur | ⟨hcur, hslash⟩⟩ := rowHolds_seekHeader.mp hrow
  · rw [seekHeader, if_pos hcur]
    exact h.inv_seekFirst b hst hcur hdl
  · rw [seekHeader, if_neg (by simp [hcur])]
    by_cases hb : b = Config.star
    · subst hb
      rw [seekSecond_star hcur]
      refine (h.after_accept _ (by simp [hcur])).inv_setParser ?_
      exact rowHolds_readLength.mpr ⟨hdl, .inl (by simp [hcur]), headerHeld_iff.mpr
        ⟨by simp [bufRead_accept, hcur, hslash], by simp [bufRead_accept, hcur]⟩⟩
    · rw [seekSecond, if_neg hb]
      refine OpenBounds.inv_seekFirst ?_ b rfl rfl rfl
      exact ⟨h.opened, h.maxCapacity, h.cap_ge, h.cap_le, by simp, by simp, by simp⟩

/-- An accepted length is the DL it is stored in: it is at most CAP, so it fits 16 bits (R136). -/
theorem lengthHeld_of_declaredLength {s : State} (hh : headerHeld s = true) (h13 : 13 ≤ (declaredLength s).toNat)
    (hcap : (declaredLength s).toNat ≤ s.cap.toNat) :
    lengthHeld { s with dl := (declaredLength s).setWidth 16 } = true := by
  have hdl : ((declaredLength s).setWidth 16).toNat = (declaredLength s).toNat := by
    rw [BitVec.toNat_setWidth]
    exact Nat.mod_eq_of_lt (hcap.trans_lt s.cap.isLt)
  obtain ⟨h0, h1⟩ := headerHeld_iff.mp hh
  exact lengthHeld_iff.mpr ⟨h0, h1, hdl.symm, hdl.symm ▸ h13, hdl.symm ▸ hcap⟩

theorem OpenBounds.inv_readLength {s : State} (h : OpenBounds s) (b : Byte) (hst : s.state = 1#3)
    (hrow : rowHolds s .readLength = true) : (readLength (accept b s)).Inv := by
  obtain ⟨hdl, hcur, hh⟩ := rowHolds_readLength.mp hrow
  have ha : OpenBounds (accept b s) := h.after_accept b (by rcases hcur with hc | hc <;> simp [hc])
  have hh' : headerHeld (accept b s) = true := by
    rw [headerHeld_accept b (by rcases hcur with hc | hc <;> simp [hc]), hh]
  rcases hcur with hcur | hcur
  · have hc : (accept b s).cur = 3#16 := by simp [hcur]
    rw [readLength, if_neg (by rw [hc]; decide)]
    exact ha.inv (p := .readLength) hst (rowHolds_readLength.mpr ⟨hdl, .inr hc, hh'⟩)
  · have hc : (accept b s).cur = 4#16 := by simp [hcur]
    rw [readLength, if_pos hc]
    split
    · exact ha.inv_diagnose _ _
    · rename_i hL
      have hlen := lengthHeld_of_declaredLength hh' (by omega) (by omega)
      have hbounds : OpenBounds { accept b s with dl := (declaredLength (accept b s)).setWidth 16 } :=
        ha.congr rfl rfl rfl rfl rfl
      exact hbounds.inv_setParser (rowHolds_readType.mpr ⟨.inl hc, hlen⟩)

theorem OpenBounds.inv_readType {s : State} (h : OpenBounds s) (b : Byte) (hst : s.state = 2#3)
    (hrow : rowHolds s .readType = true) : (readType (accept b s)).Inv := by
  obtain ⟨hcur, hlen⟩ := rowHolds_readType.mp hrow
  have h13 := (dl_bounds_of_lengthHeld hlen).1
  have hrange : 4 ≤ s.cur.toNat ∧ s.cur.toNat < 13 := by rcases hcur with hc | hc | hc <;> simp [hc]
  obtain ⟨ha, -, hlen'⟩ := h.accept_lengthHeld b hrange.1 (by omega) hlen
  have hd : (accept b s).dl.toNat = s.dl.toNat := rfl
  by_cases hc : (accept b s).cur = 7#16
  · have hc' : (accept b s).cur.toNat = 7 := by rw [hc]; rfl
    rw [readType, if_pos hc]
    split
    · rename_i hdl
      have hdl' : (accept b s).dl.toNat = 13 := by rw [hdl]; rfl
      exact ha.inv_setParser (rowHolds_readChecksum.mpr ⟨by omega, by omega, hlen'⟩)
    · rename_i hdl
      have hdl' : (accept b s).dl.toNat ≠ 13 := fun he => hdl (BitVec.eq_of_toNat_eq he)
      exact ha.inv_setParser (rowHolds_readBody.mpr ⟨by omega, by omega, hlen'⟩)
  · rw [readType, if_neg hc]
    refine ha.inv (p := .readType) hst (rowHolds_readType.mpr ⟨?_, hlen'⟩)
    rcases hcur with hcur | hcur | hcur <;> simp [hcur] at hc ⊢

theorem OpenBounds.inv_readBody {s : State} (h : OpenBounds s) (b : Byte) (hst : s.state = 3#3)
    (hrow : rowHolds s .readBody = true) : (readBody (accept b s)).Inv := by
  obtain ⟨h7, hdl, hlen⟩ := rowHolds_readBody.mp hrow
  obtain ⟨ha, hc, hlen'⟩ := h.accept_lengthHeld b (by omega) (by omega) hlen
  have hd : (accept b s).dl.toNat = s.dl.toNat := rfl
  unfold readBody
  split
  · exact ha.inv_setParser (rowHolds_readChecksum.mpr ⟨by omega, by omega, hlen'⟩)
  · exact ha.inv (p := .readBody) hst (rowHolds_readBody.mpr ⟨by omega, by omega, hlen'⟩)

/-- The comparison at the fourth checksum byte is what the row of SeekTrailer asks for (R139, R140). -/
theorem OpenBounds.inv_checkChecksum {s : State} (h : OpenBounds s) (hcur : s.cur.toNat + 2 = s.dl.toNat)
    (hlen : lengthHeld s = true) : (checkChecksum (runFcrc s)).Inv := by
  have hr : OpenBounds (runFcrc s) := h.congr rfl rfl rfl rfl rfl
  unfold checkChecksum
  split
  · rename_i hsum
    exact hr.inv_setParser (rowHolds_seekTrailer.mpr ⟨.inl hcur, hlen, hsum⟩)
  · exact hr.inv_diagnose _ _

theorem OpenBounds.inv_readChecksum {s : State} (h : OpenBounds s) (b : Byte) (hst : s.state = 4#3)
    (hrow : rowHolds s .readChecksum = true) : (readChecksum (accept b s)).Inv := by
  obtain ⟨h6, hdl, hlen⟩ := rowHolds_readChecksum.mp hrow
  have h13 := (dl_bounds_of_lengthHeld hlen).1
  obtain ⟨ha, hc, hlen'⟩ := h.accept_lengthHeld b (by omega) (by omega) hlen
  have hd : (accept b s).dl.toNat = s.dl.toNat := rfl
  unfold readChecksum
  split
  · rename_i hfourth
    exact ha.inv_checkChecksum hfourth hlen'
  · exact ha.inv (p := .readChecksum) hst (rowHolds_readChecksum.mpr ⟨by omega, by omega, hlen'⟩)

/-- The first trailer byte keeps the matched checksum; the second, or a wrong one, ends the frame (R141, R142). -/
theorem OpenBounds.inv_seekTrailer {s : State} (h : OpenBounds s) (b : Byte) (hst : s.state = 5#3)
    (hrow : rowHolds s .seekTrailer = true) : (seekTrailer b (accept b s)).Inv := by
  obtain ⟨hcur, hlen, hsum⟩ := rowHolds_seekTrailer.mp hrow
  have h13 := (dl_bounds_of_lengthHeld hlen).1
  obtain ⟨ha, hc, hlen'⟩ := h.accept_lengthHeld b (by omega) (by omega) hlen
  have hd : (accept b s).dl.toNat = s.dl.toNat := rfl
  unfold seekTrailer
  split
  · rename_i hfirst
    split
    · rename_i hstar
      have hat : (accept b s).dl.toNat - 2 = s.cur.toNat := by omega
      have hread : bufRead (accept b s) ((accept b s).dl.toNat - 2) = Config.star := by
        rw [hat, bufRead_accept, if_pos rfl, hstar]
      obtain ⟨hrec, hdom⟩ := checksum_accept (s := s) b (by omega) (by omega)
      exact ha.inv (p := .seekTrailer) hst
        (rowHolds_seekTrailer.mpr ⟨.inr ⟨hfirst, hread⟩, hlen', by rw [hrec, hdom, hsum]⟩)
    · exact ha.inv_diagnose _ _
  · split
    · have hr : OpenBounds (deliver (accept b s).dl (accept b s)) := ha.congr rfl rfl rfl rfl rfl
      exact hr.inv_abort
    · exact ha.inv_diagnose _ _

/-- PUSH's case of the parser state keeps the invariant. -/
theorem pushIn_inv {s : State} {p : ParserState} (b : Byte) (ho : s.opened = true) (hp : s.state = p.code)
    (hi : s.Inv) : (pushIn b s p).Inv := by
  obtain ⟨h, hrow⟩ := (inv_iff_open ho hp).mp hi
  cases p with
  | seekHeader => exact h.inv_seekHeader b hp hrow
  | readLength => exact h.inv_readLength b hp hrow
  | readType => exact h.inv_readType b hp hrow
  | readBody => exact h.inv_readBody b hp hrow
  | readChecksum => exact h.inv_readChecksum b hp hrow
  | seekTrailer => exact h.inv_seekTrailer b hp hrow

/-! ## Every command and every step -/

/-- An accepted OPEN leaves an empty parser within the bounds. -/
theorem inv_openParser {s : State} {cap : Half} (hm : MaxCapacityLegal s) (hcap : capacityAccepted cap s = true) :
    (openParser cap s).Inv := by
  simp only [capacityAccepted, Bool.and_eq_true, Nat.ble_eq] at hcap
  exact inv_of_empty rfl hm hcap.1 hcap.2 rfl rfl rfl rfl

/-- Every command keeps the invariant. -/
theorem exec_inv {i : Instr} {s t : State} (hi : s.Inv) (h : exec i s = .next t) : t.Inv := by
  cases execAnswer_of_next h with
  | openInvalidArg => exact (inv_respond _ _ s).mpr hi
  | openWith cap hcap => exact (inv_respondOk _).mpr (inv_openParser hi.1 hcap)
  | closeInvalidArg => exact (inv_respond _ _ s).mpr hi
  | close => exact (inv_respondOk _).mpr (inv_of_closed hi.1 rfl rfl rfl)
  | pushInvalidArg => exact (inv_respond _ _ s).mpr hi
  | pushInvalidState b ho hp =>
    obtain ⟨-, -, -, hc⟩ := hi
    simp [consistent, ho, hp] at hc
  | push b p ho hp => exact (inv_respondOk _).mpr (pushIn_inv b ho hp hi)
  | pktAttach => exact (inv_respondOk _).mpr hi
  | pktDetach => exact (inv_respondOk _).mpr hi
  | errAttach => exact (inv_respondOk _).mpr hi
  | errDetach => exact (inv_respondOk _).mpr hi
  | crcCreate => exact (inv_respondOk _).mpr hi
  | crcUpdate b => exact (inv_respondOk _).mpr hi
  | crcFinal => exact (inv_respond _ _ s).mpr hi

/-- Every command word keeps the invariant, legal or not. -/
theorem runWord_inv {w : Word} {s t : State} (hi : s.Inv) (h : runWord w s = .next t) : t.Inv := by
  rcases decode_cases w with ⟨i, hw⟩ | ⟨e, hw⟩
  · rw [runWord_ok s hw] at h
    exact exec_inv hi h
  · rw [runWord_error s hw] at h
    cases h
    exact (inv_respond _ _ s).mpr hi

/-- Settles O49: a hardware reset leaves a closed block, an idle step changes nothing, and a command word keeps the
invariant by the case of its command. -/
theorem stepKeepsTheInvariant : Obligations.StepKeepsTheInvariant := by
  unfold Obligations.StepKeepsTheInvariant
  intro s t hi h
  rcases step_cases s with ⟨rest, -, he⟩ | ⟨-, -, he⟩ | ⟨-, -, he⟩ | ⟨-, w, rest, -, he⟩
  · cases he.symm.trans h
    exact inv_of_closed hi.1 rfl rfl rfl
  · cases he.symm.trans h
  · cases he.symm.trans h
    exact hi
  · exact runWord_inv ((inv_withInputs rest s).mpr hi) (he.symm.trans h)

/-- Settles O48: the state after reset is a closed block with its registers at 0. -/
theorem resetMeetsTheInvariant : Obligations.ResetMeetsTheInvariant := by
  have hreset (m : Nat) (hge : 13 ≤ m) (hle : m ≤ 65535) : (State.resetWith m).Inv :=
    inv_of_closed ⟨hge, hle⟩ rfl rfl rfl
  exact ⟨hreset, hreset Config.resetMaxCapacity (by decide) (by decide)⟩

/-- Settles O11: the table of R33 is how the state after reset is written, for every MAX_CAPACITY. -/
theorem stateAfterResetHoldsTheTable : Obligations.StateAfterResetHoldsTheTable :=
  ⟨fun _ => ⟨rfl, rfl, rfl, rfl, rfl, rfl, rfl, rfl, fun _ => rfl⟩, Config.resetMaxCapacity, rfl⟩

end Sys2Proof.Machine
end

section
/-! SUPPORT. Who writes which register (O44), and which steps are refused (O57). -/

namespace Sys2Proof.Machine

@[simp] theorem bufRead_respond (r : Status) (d : Word) (s : State) (i : Nat) :
    bufRead (respond r d s) i = bufRead s i := rfl
@[simp] theorem bufRead_respondOk (s : State) (i : Nat) : bufRead (respondOk s) i = bufRead s i := rfl
@[simp] theorem bufRead_setPktAtt (v : Bool) (s : State) (i : Nat) : bufRead (setPktAtt v s) i = bufRead s i := rfl
@[simp] theorem bufRead_setErrAtt (v : Bool) (s : State) (i : Nat) : bufRead (setErrAtt v s) i = bufRead s i := rfl
@[simp] theorem bufRead_setHcrc (v : Word) (s : State) (i : Nat) : bufRead (setHcrc v s) i = bufRead s i := rfl

/-- PUSH, in whatever way it answers, changes nothing outside the parser. -/
theorem execPush_sameOutsideParser {b : Byte} {s t : State} (h : exec (.push b) s = .next t) :
    SameOutsideParser s t := by
  cases execAnswer_of_next h with
  | pushInvalidArg => simp [SameOutsideParser]
  | pushInvalidState => simp [SameOutsideParser, internalError]
  | push b p => exact sameOutsideParser_pushIn b s p

/-- Settles O44: by the ways a command answers. PUSH's frame is SameOutsideParser; every other answer is one named
update of the registers and the response. -/
theorem registersChangeOnlyByTheirWriters : Obligations.RegistersChangeOnlyByTheirWriters := by
  unfold Obligations.RegistersChangeOnlyByTheirWriters
  intro i s t h
  cases i with
  | push b =>
    obtain ⟨ho, hcap, hh, hpkt, herr, hm, hin⟩ := execPush_sameOutsideParser h
    simp [ho, hcap, hh, hpkt, herr, hm, hin]
  | _ => cases execAnswer_of_next h <;> simp [Memory.unlisted]

/-- Settles O57: the step makes the check of the launch states, and from a launch state no command is refused. -/
theorem inconsistentLaunchStatesAreRefused : Obligations.InconsistentLaunchStatesAreRefused := by
  unfold Obligations.InconsistentLaunchStatesAreRefused
  constructor
  · intro s hcode hc hin
    have hl : launchable s = false := not_launchable_iff.mpr ⟨hcode, hc⟩
    rcases step_cases s with ⟨rest, hreset, -⟩ | ⟨-, -, he⟩ | ⟨hl', -⟩ | ⟨hl', -⟩
    · exact absurd hreset (hin rest)
    · exact he
    · simp [hl] at hl'
    · simp [hl] at hl'
  · intro s r h
    rcases step_cases s with ⟨rest, -, he⟩ | ⟨hin, hl, he⟩ | ⟨-, -, he⟩ | ⟨hl, w, rest, -, he⟩
    · cases he.symm.trans h
    · cases he.symm.trans h
      obtain ⟨hcode, hc⟩ := not_launchable_iff.mp hl
      exact ⟨rfl, hcode, hc, hin⟩
    · cases he.symm.trans h
    · exact absurd (he.symm.trans h) (runWord_ne_refused (s := withInputs rest s) hl w r)

end Sys2Proof.Machine
end

section
/-! SUPPORT. The independence of the two accumulators (O46). -/

namespace Sys2Proof.Machine

/-! ## The two accumulators -/

/-- s with other values in HCRC and FCRC. -/
def withAccumulators (h v : Word) (s : State) : State := { s with hcrc := h, fcrc := v }

/-- f, run from s, neither reads an accumulator nor writes HCRC: with any values in them it leads to the same state but
for HCRC, which keeps its value, and FCRC, which w gives. -/
def AccumulatorsFree (f : State → State) (s : State) : Prop :=
  ∃ w : Word → Word, ∀ h v, f (withAccumulators h v s) = withAccumulators h (w v) (f s)

theorem AccumulatorsFree.comp {f g : State → State} {s : State} (hg : AccumulatorsFree g (f s))
    (hf : AccumulatorsFree f s) : AccumulatorsFree (fun s => g (f s)) s := by
  obtain ⟨w, hw⟩ := hf
  obtain ⟨x, hx⟩ := hg
  exact ⟨fun v => x (w v), fun h v => (congrArg g (hw h v)).trans (hx h (w v))⟩

/-- A choice whose test reads no accumulator. -/
theorem AccumulatorsFree.ite {c : State → Prop} [∀ s, Decidable (c s)] {f g : State → State} {s : State}
    (hc : ∀ h v, c (withAccumulators h v s) ↔ c s) (hf : AccumulatorsFree f s) (hg : AccumulatorsFree g s) :
    AccumulatorsFree (fun s => if c s then f s else g s) s := by
  by_cases hs : c s
  · obtain ⟨w, hw⟩ := hf
    exact ⟨w, fun h v => by simp only [hc, hs, if_true, hw]⟩
  · obtain ⟨w, hw⟩ := hg
    exact ⟨w, fun h v => by simp only [hc, hs, if_false, hw]⟩

theorem accumulatorsFree_id (s : State) : AccumulatorsFree (fun s => s) s := ⟨id, fun _ _ => rfl⟩

theorem accumulatorsFree_setParser (p : ParserState) (s : State) : AccumulatorsFree (setParser p) s :=
  ⟨id, fun _ _ => rfl⟩

theorem accumulatorsFree_accept (b : Byte) (s : State) : AccumulatorsFree (accept b) s := ⟨id, fun _ _ => rfl⟩

/-- A diagnostic whose declared length is read from the state, as each of the parser's is. -/
theorem accumulatorsFree_diagnose (k : ErrorKind) {d : State → BitVec 17} {s : State}
    (hd : ∀ h v, d (withAccumulators h v s) = d s) : AccumulatorsFree (fun s => diagnose k (d s) s) s :=
  ⟨fun _ => Config.freeFcrc s.epoch, fun h v => by simp only [hd]; rfl⟩

theorem accumulatorsFree_seekFirst (b : Byte) (s : State) : AccumulatorsFree (seekFirst b) s :=
  .ite (fun _ _ => Iff.rfl) ⟨id, fun _ _ => rfl⟩ (accumulatorsFree_id s)

theorem accumulatorsFree_seekSecond (b : Byte) (s : State) : AccumulatorsFree (seekSecond b) s :=
  .ite (fun _ _ => Iff.rfl) ⟨id, fun _ _ => rfl⟩
    (.comp (accumulatorsFree_seekFirst b _) (accumulatorsFree_diagnose _ fun _ _ => rfl))

theorem accumulatorsFree_seekHeader (b : Byte) (s : State) : AccumulatorsFree (seekHeader b) s :=
  .ite (fun _ _ => Iff.rfl) (accumulatorsFree_seekFirst b s) (accumulatorsFree_seekSecond b s)

theorem accumulatorsFree_readLength (s : State) : AccumulatorsFree readLength s :=
  .ite (fun _ _ => Iff.rfl)
    (.ite (fun _ _ => Iff.rfl) (accumulatorsFree_diagnose _ fun _ _ => rfl) ⟨id, fun _ _ => rfl⟩)
    (accumulatorsFree_id s)

theorem accumulatorsFree_readType (s : State) : AccumulatorsFree readType s :=
  .ite (fun _ _ => Iff.rfl)
    (.ite (fun _ _ => Iff.rfl) (accumulatorsFree_setParser _ s) (accumulatorsFree_setParser _ s))
    (accumulatorsFree_id s)

theorem accumulatorsFree_readBody (s : State) : AccumulatorsFree readBody s :=
  .ite (fun _ _ => Iff.rfl) (accumulatorsFree_setParser _ s) (accumulatorsFree_id s)

/-- The check reads FCRC only after it has been computed from the frame. -/
theorem accumulatorsFree_checkChecksum_runFcrc (s : State) :
    AccumulatorsFree (fun s => checkChecksum (runFcrc s)) s := by
  have hrun : AccumulatorsFree runFcrc s := ⟨fun _ => crcUpdate Config.crcInit (checksumDomain s), fun _ _ => rfl⟩
  have hdomain (h v : Word) : checksumDomain (withAccumulators h v s) = checksumDomain s := rfl
  have hreceived (h v : Word) : receivedChecksum (runFcrc (withAccumulators h v s)) = receivedChecksum s := rfl
  refine .ite (c := fun s => receivedChecksum (runFcrc s) = crcFinalize (runFcrc s).fcrc) (fun h v => ?_)
    (.comp (accumulatorsFree_setParser _ _) hrun)
    (.comp (g := fun s => diagnose .invalidPacket (declaredDl s) s) (accumulatorsFree_diagnose _ fun _ _ => rfl) hrun)
  rw [hreceived, runFcrc_fcrc, hdomain]
  rfl

theorem accumulatorsFree_readChecksum (s : State) : AccumulatorsFree readChecksum s :=
  .ite (fun _ _ => Iff.rfl) (accumulatorsFree_checkChecksum_runFcrc s) (accumulatorsFree_id s)

theorem accumulatorsFree_seekTrailer (b : Byte) (s : State) : AccumulatorsFree (seekTrailer b) s :=
  .ite (fun _ _ => Iff.rfl)
    (.ite (fun _ _ => Iff.rfl) (accumulatorsFree_id s) (accumulatorsFree_diagnose _ fun _ _ => rfl))
    (.ite (fun _ _ => Iff.rfl) ⟨fun _ => Config.freeFcrc s.epoch, fun _ _ => rfl⟩
      (accumulatorsFree_diagnose _ fun _ _ => rfl))

/-- PUSH's case of a parser state neither reads an accumulator nor writes HCRC. -/
theorem accumulatorsFree_pushIn (b : Byte) (s : State) (p : ParserState) :
    AccumulatorsFree (fun s => pushIn b s p) s := by
  have ha := accumulatorsFree_accept b s
  cases p with
  | seekHeader => exact accumulatorsFree_seekHeader b s
  | readLength => exact .comp (accumulatorsFree_readLength _) ha
  | readType => exact .comp (accumulatorsFree_readType _) ha
  | readBody => exact .comp (accumulatorsFree_readBody _) ha
  | readChecksum => exact .comp (accumulatorsFree_readChecksum _) ha
  | seekTrailer => exact .comp (accumulatorsFree_seekTrailer b _) ha

/-- The three commands on HCRC. -/
abbrev IsCrcCommand (i : Instr) : Prop := i = .crcFinal ∨ i = .crcCreate ∨ ∃ b, i = .crcUpdate b

/-- Every other command answers alike with any values in the accumulators, and w gives the FCRC it leaves. -/
theorem ExecAnswer.withAccumulators {i : Instr} {s t : State} (ha : ExecAnswer s i t) (hi : ¬ IsCrcCommand i) :
    ∃ w : Word → Word, ∀ h v, ExecAnswer (withAccumulators h v s) i (Machine.withAccumulators h (w v) t) := by
  cases ha with
  | openInvalidArg cap hcap => exact ⟨id, fun _ _ => .openInvalidArg cap hcap⟩
  | openWith cap hcap => exact ⟨fun _ => Config.freeFcrc s.epoch, fun _ _ => .openWith cap hcap⟩
  | closeInvalidArg ho => exact ⟨id, fun _ _ => .closeInvalidArg ho⟩
  | close ho => exact ⟨fun _ => Config.freeFcrc s.epoch, fun _ _ => .close ho⟩
  | pushInvalidArg b ho => exact ⟨id, fun _ _ => .pushInvalidArg b ho⟩
  | pushInvalidState b ho hp => exact ⟨fun _ => Config.freeFcrc s.epoch, fun _ _ => .pushInvalidState b ho hp⟩
  | push b p ho hp hc =>
    obtain ⟨w, hw⟩ := accumulatorsFree_pushIn b s p
    refine ⟨w, fun h v => ?_⟩
    have hrun : pushIn b (Machine.withAccumulators h v s) p = Machine.withAccumulators h (w v) (pushIn b s p) :=
      hw h v
    have ha := ExecAnswer.push (s := Machine.withAccumulators h v s) b p ho hp hc
    rw [hrun] at ha
    exact ha
  | pktAttach => exact ⟨id, fun _ _ => .pktAttach⟩
  | pktDetach => exact ⟨id, fun _ _ => .pktDetach⟩
  | errAttach => exact ⟨id, fun _ _ => .errAttach⟩
  | errDetach => exact ⟨id, fun _ _ => .errDetach⟩
  | crcCreate => simp at hi
  | crcUpdate => simp at hi
  | crcFinal => simp at hi

/-- The two runs compared: HCRC is kept, any HCRC is carried along, and FCRC alone depends on FCRC. -/
theorem exec_withAccumulators {i : Instr} {s t : State} (hi : ¬ IsCrcCommand i) (he : exec i s = .next t) :
    t.hcrc = s.hcrc ∧ ∃ w : Word → Word, w s.fcrc = t.fcrc ∧
      ∀ h v, exec i (withAccumulators h v s) = .next (withAccumulators h (w v) t) := by
  obtain ⟨w, hw⟩ := (execAnswer_of_next he).withAccumulators hi
  have hself : exec i s = .next (withAccumulators s.hcrc (w s.fcrc) t) := (hw s.hcrc s.fcrc).exec_eq
  have ht : t = withAccumulators s.hcrc (w s.fcrc) t := Host.Outcome.next.inj (he.symm.trans hself)
  have hh := congrArg State.hcrc ht
  have hf := congrArg State.fcrc ht
  exact ⟨hh, w, hf.symm, fun h v => (hw h v).exec_eq⟩

/-- A CRC command changes only HCRC and the outputs, and keeps any value of FCRC. -/
theorem exec_crc {i : Instr} {s t : State} (hi : IsCrcCommand i) (he : exec i s = .next t) :
    t = { s with hcrc := t.hcrc, outputs := t.outputs } ∧
      ∀ v, exec i { s with fcrc := v } = .next { t with fcrc := v } := by
  rcases hi with rfl | rfl | ⟨b, rfl⟩ <;> cases he <;> exact ⟨rfl, fun _ => rfl⟩

/-- Settles O46: the runs of a command with other values in the accumulators, compared with its run without. -/
theorem accumulatorsAreIndependent : Obligations.AccumulatorsAreIndependent := by
  unfold Obligations.AccumulatorsAreIndependent
  refine ⟨fun i s t h hfinal hcreate hupdate he => ?_, fun i s t hi he => (exec_crc hi he).1, fun i s t v he => ?_⟩
  · have hi : ¬ IsCrcCommand i := by simp [IsCrcCommand, hfinal, hcreate, hupdate]
    obtain ⟨hh, w, hw, hrun⟩ := exec_withAccumulators hi he
    refine ⟨hh, ?_⟩
    have hsame := hrun h s.fcrc
    rw [hw] at hsame
    exact hsame
  · by_cases hi : IsCrcCommand i
    · exact ⟨_, (exec_crc hi he).2 v, rfl⟩
    · obtain ⟨hh, w, -, hrun⟩ := exec_withAccumulators hi he
      refine ⟨_, hrun s.hcrc v, ?_⟩
      rw [← hh]
      rfl

end Sys2Proof.Machine
end

section
/-! SUPPORT. What one PUSH does to the frame buffer (O33), and the commands that may be issued twice (O47). -/

namespace Sys2Proof.Machine

/-! ## What PUSH stores -/

/-- t has the cursor, the defined bytes of BUF and the free values of s. -/
abbrev SameBuffer (s t : State) : Prop := t.cur = s.cur ∧ t.buf = s.buf ∧ t.epoch = s.epoch

/-- After a recovery the parser is an empty SeekHeader (R144). -/
theorem emptyParser_abort (s : State) : EmptyParser (abort s) := ⟨rfl, rfl, rfl, fun _ => rfl⟩

/-- A diagnostic ends the frame (R200). -/
theorem emptyParser_diagnose (k : ErrorKind) (d : BitVec 17) (s : State) : EmptyParser (diagnose k d s) :=
  emptyParser_abort _

/-! Each check that follows an accept leaves BUF as it is, or ends the frame. -/

theorem readLength_keeps_or_ends (s : State) : SameBuffer s (readLength s) ∨ EmptyParser (readLength s) := by
  unfold readLength
  split
  · split
    · exact .inr (emptyParser_diagnose _ _ s)
    · exact .inl ⟨rfl, rfl, rfl⟩
  · exact .inl ⟨rfl, rfl, rfl⟩

theorem readType_keeps (s : State) : SameBuffer s (readType s) := by
  unfold readType
  split
  · split <;> exact ⟨rfl, rfl, rfl⟩
  · exact ⟨rfl, rfl, rfl⟩

theorem readBody_keeps (s : State) : SameBuffer s (readBody s) := by
  unfold readBody
  split <;> exact ⟨rfl, rfl, rfl⟩

theorem readChecksum_keeps_or_ends (s : State) : SameBuffer s (readChecksum s) ∨ EmptyParser (readChecksum s) := by
  unfold readChecksum checkChecksum
  split
  · split
    · exact .inl ⟨rfl, rfl, rfl⟩
    · exact .inr (emptyParser_diagnose _ _ (runFcrc s))
  · exact .inl ⟨rfl, rfl, rfl⟩

theorem seekTrailer_keeps_or_ends (b : Byte) (s : State) :
    SameBuffer s (seekTrailer b s) ∨ EmptyParser (seekTrailer b s) := by
  unfold seekTrailer
  split
  · split
    · exact .inl ⟨rfl, rfl, rfl⟩
    · exact .inr (emptyParser_diagnose _ _ s)
  · split
    · exact .inr (emptyParser_abort _)
    · exact .inr (emptyParser_diagnose _ _ s)

/-- What a PUSH of b can do to the buffer of s: one constructor per way. -/
inductive PushStore (b : Byte) (s : State) : State → Prop
  /-- The byte is stored at the cursor as accept stores it (R134), and the frame goes on. -/
  | stored {t : State} (accepted : SameBuffer (accept b s) t) : PushStore b s t
  /-- An empty SeekHeader drops the byte (R131). -/
  | dropped (state : s.state = 0#3) (cur : s.cur = 0#16) (byte : b ≠ Config.slash) : PushStore b s s
  /-- The frame has ended, by a delivery or a diagnostic (R144). -/
  | ended {t : State} (empty : EmptyParser t) : PushStore b s t
  /-- A stray header byte ends the frame, and b is stored as the first header byte of the next one (R133). -/
  | reexamined {r : State} (state : s.state = 0#3) (cur : s.cur = 1#16) (byte : b = Config.slash)
      (empty : EmptyParser r) : PushStore b s (accept b r)

/-- A check that keeps the buffer or ends the frame, run after accept. -/
theorem PushStore.of_accept {b : Byte} {s t : State} (h : SameBuffer (accept b s) t ∨ EmptyParser t) :
    PushStore b s t :=
  h.elim .stored .ended

theorem pushStore_seekHeader {s : State} (b : Byte) (hst : s.state = 0#3) (hrow : rowHolds s .seekHeader = true) :
    PushStore b s (seekHeader b s) := by
  obtain ⟨-, hcur | ⟨hcur, -⟩⟩ := rowHolds_seekHeader.mp hrow
  · rw [seekHeader, if_pos hcur]
    by_cases hb : b = Config.slash
    · subst hb
      rw [seekFirst_slash hcur]
      exact .stored ⟨rfl, rfl, rfl⟩
    · rw [seekFirst, if_neg hb]
      exact .dropped hst hcur hb
  · rw [seekHeader, if_neg (by simp [hcur])]
    by_cases hstar : b = Config.star
    · subst hstar
      rw [seekSecond_star hcur]
      exact .stored ⟨rfl, rfl, rfl⟩
    · rw [seekSecond, if_neg hstar]
      have hempty := emptyParser_diagnose .headerNotFoundYet (declaredDl s) s
      by_cases hb : b = Config.slash
      · subst hb
        rw [seekFirst_slash rfl]
        exact .reexamined hst hcur rfl hempty
      · rw [seekFirst, if_neg hb]
        exact .ended hempty

/-- PUSH's case of the parser state, in a state of R31. -/
theorem pushStore_pushIn {s : State} {p : ParserState} (b : Byte) (hp : s.state = p.code)
    (hrow : rowHolds s p = true) : PushStore b s (pushIn b s p) := by
  cases p with
  | seekHeader => exact pushStore_seekHeader b hp hrow
  | readLength => exact .of_accept (readLength_keeps_or_ends (accept b s))
  | readType => exact .stored (readType_keeps (accept b s))
  | readBody => exact .stored (readBody_keeps (accept b s))
  | readChecksum => exact .of_accept (readChecksum_keeps_or_ends (accept b s))
  | seekTrailer => exact .of_accept (seekTrailer_keeps_or_ends b (accept b s))

/-- On an open block of R31 a PUSH answers OK after doing one of these to the buffer. -/
theorem execPush_pushStore {b : Byte} {s t : State} (ho : s.opened = true) (hc : consistent s = true)
    (h : exec (.push b) s = .next t) : ∃ u, t = respondOk u ∧ PushStore b s u := by
  cases execAnswer_of_next h with
  | pushInvalidArg _ hclosed => simp [ho] at hclosed
  | pushInvalidState _ _ hinvalid => simp [consistent, ho, hinvalid] at hc
  | push _ p _ hp hcons =>
    obtain ⟨-, -, -, hrow⟩ := openConsistent_iff.mp hcons
    exact ⟨_, rfl, pushStore_pushIn b hp hrow⟩

/-- Settles O33: by the four ways of PushStore, read off the buffer by the laws of a write. -/
theorem pushStoresOnlyAtTheCursor : Obligations.PushStoresOnlyAtTheCursor := by
  unfold Obligations.PushStoresOnlyAtTheCursor
  intro b s t ho hc h
  obtain ⟨u, rfl, hstore⟩ := execPush_pushStore ho hc h
  cases hstore with
  | stored haccepted =>
    obtain ⟨hcur, hbuf, hepoch⟩ := haccepted
    have hread (i : Nat) : bufRead u i = if i = s.cur.toNat then b else bufRead s i := by
      rw [bufRead_congr (congrArg (Memory.lookup · i) hbuf) hepoch, bufRead_accept]
    refine .inl ⟨hcur, (hread _).trans (if_pos rfl), fun i hi => (hread i).trans (if_neg hi), fun i => ?_⟩
    rw [respondOk_buf, hbuf, accept_buf, Memory.lookup_write]
  | dropped hst hcur hb => exact .inr (.inl ⟨hst, hcur, hb, rfl, rfl, fun _ => rfl⟩)
  | ended hempty =>
    obtain ⟨hst, hcur, hdl, hbuf⟩ := hempty
    exact .inr (.inr ⟨hst, hdl, .inl ⟨hcur, hbuf⟩⟩)
  | reexamined hst hcur hb hempty =>
    obtain ⟨hst', hcur', hdl', hbuf'⟩ := hempty
    refine .inr (.inr ⟨hst', hdl', .inr ⟨by simp [hcur'], hb, hst, hcur, fun i => ?_⟩⟩)
    simp [Memory.lookup_write, hcur', hbuf']

/-! ## Commands issued twice -/

/-- The commands of R59 whose second issue is answered like the first. -/
abbrev IsIdempotent (i : Instr) : Prop :=
  i = .crcFinal ∨ i = .crcCreate ∨ i = .pktAttach ∨ i = .pktDetach ∨ i = .errAttach ∨ i = .errDetach ∨
    ∃ c, i = .openWith c

/-- Such a command answers from the state it has left as it answered before: the answer is of the same constructor, for
its guard (whether OPEN's capacity is accepted) reads only MAX_CAPACITY, which the answer keeps. -/
theorem ExecAnswer.repeated {i : Instr} {s t : State} (hi : IsIdempotent i) (h : ExecAnswer s i t) :
    ∃ u, ExecAnswer t i u ∧ SameRegisters t u ∧ u.outputs.getLast? = t.outputs.getLast? := by
  cases h with
  | openInvalidArg cap hcap => exact ⟨_, .openInvalidArg cap hcap, by simp [SameRegisters]⟩
  | openWith cap hcap => exact ⟨_, .openWith cap hcap, by simp [SameRegisters]⟩
  | pktAttach => exact ⟨_, .pktAttach, by simp [SameRegisters]⟩
  | pktDetach => exact ⟨_, .pktDetach, by simp [SameRegisters]⟩
  | errAttach => exact ⟨_, .errAttach, by simp [SameRegisters]⟩
  | errDetach => exact ⟨_, .errDetach, by simp [SameRegisters]⟩
  | crcCreate => exact ⟨_, .crcCreate, by simp [SameRegisters]⟩
  | crcFinal => exact ⟨_, .crcFinal, by simp [SameRegisters]⟩
  | closeInvalidArg | close | pushInvalidArg | pushInvalidState | push | crcUpdate => simp [IsIdempotent] at hi

/-- After a CLOSE, accepted or not, the block is closed. -/
theorem opened_of_execClose {s t : State} (h : exec .close s = .next t) : t.opened = false := by
  cases execAnswer_of_next h with
  | closeInvalidArg hclosed => exact hclosed
  | close => rfl

/-- An open block of the least capacity that holds the first header byte. -/
def afterSlash : State := { State.reset with opened := true, cap := 13#16, cur := 1#16, buf := [(0, Config.slash)] }

/-- A 0x2A completes the header, and a second one is the first byte of the length field. -/
theorem push_not_idempotent :
    ∃ (b : Byte) (s t u : State), exec (.push b) s = .next t ∧ exec (.push b) t = .next u ∧ ¬ SameRegisters t u := by
  refine ⟨Config.star, afterSlash, _, _, execPush_open _ rfl (p := .seekHeader) rfl (by decide),
    execPush_open _ rfl (p := .readLength) rfl (by decide), ?_⟩
  rintro ⟨-, -, -, hcur, -⟩
  exact absurd hcur (by decide)

/-- From reset, a CRC_UPDATE with 0xFF gives 0x00FFFFFF and the second 0x0000FFFF. -/
theorem crcUpdate_not_idempotent :
    ∃ (b : Byte) (s t u : State), exec (.crcUpdate b) s = .next t ∧ exec (.crcUpdate b) t = .next u ∧
      t.hcrc ≠ u.hcrc :=
  ⟨0xFF#8, State.reset, _, _, rfl, rfl, by decide⟩

/-- Settles O47: an idempotent command repeats its answer, a CLOSE leaves a closed block, and two examples. -/
theorem repeatedCommandsChangeNoRegister : Obligations.RepeatedCommandsChangeNoRegister := by
  unfold Obligations.RepeatedCommandsChangeNoRegister
  refine ⟨fun i s t hi h => ?_, fun s t h => ?_, push_not_idempotent, crcUpdate_not_idempotent⟩
  · obtain ⟨u, ha, hsame, hlast⟩ := (execAnswer_of_next h).repeated hi
    exact ⟨u, ha.exec_eq, hsame, hlast⟩
  · exact (ExecAnswer.closeInvalidArg (opened_of_execClose h)).exec_eq

end Sys2Proof.Machine
end

section
/-! SUPPORT. The round trip of commands and words (O1 to O3), the well-formed words as numbers (O4), the step on a
command word, legal or not (O5, O7, O9), and the code tables (O6). -/

namespace Sys2Proof

/-! ## A command and its word -/

theorem opcode_ofCode_iff {c : Byte} {o : Opcode} : Opcode.ofCode c = some o ↔ c = o.code :=
  ⟨code_of_ofCode, fun h => h ▸ ofCode_opcode_code o⟩

/-- What the encoder writes into imm16 is what the command's format allows there. -/
theorem mustBeZeroHolds_imm16 (i : Instr) : i.opcode.format.mustBeZeroHolds i.imm16 = true := by
  have hbyte (b : Byte) : Format.mustBeZeroHolds .c8 (byteImm b) = true :=
    beq_iff_eq.mpr (Laws.EncodedWord.highOperand_byteImm b)
  cases i with
  | push b => exact hbyte b
  | crcUpdate b => exact hbyte b
  | _ => rfl

/-- A command is the one its opcode makes of its imm16. -/
theorem instr_opcode_imm16 (i : Instr) : i.opcode.instr i.imm16 = i := by
  cases i with
  | push b => exact congrArg Instr.push (byteOperand_byteImm b)
  | crcUpdate b => exact congrArg Instr.crcUpdate (byteOperand_byteImm b)
  | _ => rfl

/-- The command an opcode makes of an imm16 its format allows has that imm16. -/
theorem imm16_instr {o : Opcode} {imm : Half} (h : o.format.mustBeZeroHolds imm = true) :
    (o.instr imm).imm16 = imm := by
  cases o with
  | openWith => rfl
  | push => exact byteImm_byteOperand (beq_iff_eq.mp h)
  | crcUpdate => exact byteImm_byteOperand (beq_iff_eq.mp h)
  | _ => exact (beq_iff_eq.mp h).symm

theorem decode_encode (i : Instr) : decode (encode i) = .ok i := by
  obtain ⟨-, hop, hrsv, himm⟩ := Laws.EncodedWord.of_format (mustBeZeroHolds_imm16 i)
  refine decode_eq_ok_iff.mpr ⟨i.opcode, hop, hrsv, ?_, ?_⟩
  · rw [himm, mustBeZeroHolds_imm16]
  · rw [himm, instr_opcode_imm16]

theorem encode_of_decode {w : Word} {i : Instr} (h : decode w = .ok i) : encode i = w := by
  obtain ⟨o, hop, hrsv, hzero, rfl⟩ := decode_eq_ok_iff.mp h
  calc encode (o.instr (immField w))
      = commandWord o.code 0#8 (immField w) := by rw [encode, opcode_instr, imm16_instr hzero]
    _ = commandWord (opField w) (rsvField w) (immField w) := by rw [code_of_ofCode hop, hrsv]
    _ = w := commandWord_fields w

theorem encode_wellFormed (i : Instr) : wellFormedWord (encode i) = true :=
  (Laws.EncodedWord.of_format (mustBeZeroHolds_imm16 i)).1

theorem encode_toNat (i : Instr) : (encode i).toNat = i.opcode.code.toNat * 2 ^ 24 + i.imm16.toNat := by
  rw [encode, commandWord_toNat, BitVec.toNat_zero]
  omega

/-! ## Well-formed words -/

/-- R87's three conditions, with the opcode named. -/
theorem wellFormedWord_iff {w : Word} :
    wellFormedWord w = true ↔
      ∃ o : Opcode, opField w = o.code ∧ rsvField w = 0#8 ∧ o.format.mustBeZeroHolds (immField w) = true := by
  simp only [wellFormedWord, opAssigned, reservedIsZero, operandBitsAreZero, ← opcode_ofCode_iff]
  cases Opcode.ofCode (opField w) <;> simp

/-- The decoder rejects exactly the illegal words. -/
theorem wellFormedWord_iff_decode {w : Word} : wellFormedWord w = true ↔ ∃ i, decode w = .ok i := by
  simp only [wellFormedWord_iff, decode_eq_ok_iff, opcode_ofCode_iff]
  exact ⟨fun ⟨o, hop, hrsv, hzero⟩ => ⟨_, o, hop, hrsv, hzero, rfl⟩,
    fun ⟨_, o, hop, hrsv, hzero, _⟩ => ⟨o, hop, hrsv, hzero⟩⟩

theorem decode_of_not_wellFormed {w : Word} (h : wellFormedWord w = false) : ∃ e, decode w = .error e :=
  (decode_cases w).resolve_left fun hi => by simp [wellFormedWord_iff_decode.mpr hi] at h

/-! ### The opcode map and the formats as numbers -/

theorem exists_code_iff {c : Byte} :
    (∃ o : Opcode, c = o.code) ↔
      c.toNat ∈ [0x01, 0x02, 0x03, 0x04, 0x05, 0x06, 0x07, 0x10, 0x11, 0x12] := by
  constructor
  · rintro ⟨o, rfl⟩
    cases o <;> decide
  · have hmap : ∀ c : Byte, c.toNat ∈ [0x01, 0x02, 0x03, 0x04, 0x05, 0x06, 0x07, 0x10, 0x11, 0x12] →
        (Opcode.ofCode c).isSome = true := by decide
    intro h
    obtain ⟨o, ho⟩ := Option.isSome_iff_exists.mp (hmap c h)
    exact ⟨o, code_of_ofCode ho⟩

theorem code_of_c8_iff (o : Opcode) : o.code.toNat ∈ [0x03, 0x11] ↔ o.format = .c8 := by
  cases o <;> decide

theorem code_of_c0_iff (o : Opcode) :
    o.code.toNat ∈ [0x02, 0x04, 0x05, 0x06, 0x07, 0x10, 0x12] ↔ o.format = .c0 := by
  cases o <;> decide

theorem mustBeZeroHolds_iff {f : Format} {imm : Half} :
    f.mustBeZeroHolds imm = true ↔ (f = .c8 → imm.toNat / 2 ^ 8 = 0) ∧ (f = .c0 → imm.toNat = 0) := by
  cases f with
  | c16 => simp [Format.mustBeZeroHolds]
  | c8 => rw [← highOperand_toNat]; simp [Format.mustBeZeroHolds, BitVec.toNat_eq]
  | c0 => simp [Format.mustBeZeroHolds, BitVec.toNat_eq]

/-- R87 on the word's number. -/
theorem wellFormedWord_iff_toNat {w : Word} :
    wellFormedWord w = true ↔
      w.toNat / 2 ^ 24 ∈ [0x01, 0x02, 0x03, 0x04, 0x05, 0x06, 0x07, 0x10, 0x11, 0x12] ∧
        w.toNat / 2 ^ 16 % 2 ^ 8 = 0 ∧
        (w.toNat / 2 ^ 24 ∈ [0x03, 0x11] → w.toNat / 2 ^ 8 % 2 ^ 8 = 0) ∧
        (w.toNat / 2 ^ 24 ∈ [0x02, 0x04, 0x05, 0x06, 0x07, 0x10, 0x12] → w.toNat % 2 ^ 16 = 0) := by
  have hrsv : rsvField w = 0#8 ↔ w.toNat / 2 ^ 16 % 2 ^ 8 = 0 := by
    rw [← rsvField_toNat, BitVec.toNat_eq]; rfl
  have hhigh : w.toNat / 2 ^ 8 % 2 ^ 8 = w.toNat % 2 ^ 16 / 2 ^ 8 := by omega
  have hzero {o : Opcode} (ho : opField w = o.code) :
      o.format.mustBeZeroHolds (immField w) = true ↔
        (w.toNat / 2 ^ 24 ∈ [0x03, 0x11] → w.toNat / 2 ^ 8 % 2 ^ 8 = 0) ∧
          (w.toNat / 2 ^ 24 ∈ [0x02, 0x04, 0x05, 0x06, 0x07, 0x10, 0x12] → w.toNat % 2 ^ 16 = 0) := by
    rw [← opField_toNat, ho, code_of_c8_iff, code_of_c0_iff, mustBeZeroHolds_iff, immField_toNat, hhigh]
  rw [wellFormedWord_iff, ← hrsv, ← opField_toNat, ← exists_code_iff, opField_toNat]
  constructor
  · rintro ⟨o, ho, hr, hz⟩
    exact ⟨⟨o, ho⟩, hr, (hzero ho).mp hz⟩
  · rintro ⟨⟨o, ho⟩, hr, hz⟩
    exact ⟨o, ho, hr, (hzero ho).mpr hz⟩

/-- The assigned opcodes are two runs of numbers (R86). -/
theorem opNumber_of_wellFormed {w : Word} (h : wellFormedWord w = true) :
    (0x01 ≤ w.toNat / 2 ^ 24 ∧ w.toNat / 2 ^ 24 ≤ 0x07) ∨ (0x10 ≤ w.toNat / 2 ^ 24 ∧ w.toNat / 2 ^ 24 ≤ 0x12) := by
  obtain ⟨o, ho, -⟩ := wellFormedWord_iff.mp h
  rw [← opField_toNat, ho]
  cases o <;> decide

/-! ## The statements about words -/

/-- Settles O2: the three fields of the encoding are the command's opcode, 0 and its imm16. -/
theorem decodeOfEncodeGivesTheCommandBack : Obligations.DecodeOfEncodeGivesTheCommandBack := decode_encode

/-- Settles O3: the checks of the decoder fix all three fields of the word. -/
theorem encodeOfDecodeGivesTheWordBack : Obligations.EncodeOfDecodeGivesTheWordBack := fun _ _ => encode_of_decode

/-- Settles O4: the operands are read off the word's number, as the word is the encoding of its command (O3). -/
theorem wellFormedWordsAreThoseOfTheFormats : Obligations.WellFormedWordsAreThoseOfTheFormats := by
  unfold Obligations.WellFormedWordsAreThoseOfTheFormats
  have himm {w : Word} {i : Instr} (h : decode w = .ok i) : w.toNat % 2 ^ 16 = i.imm16.toNat := by
    rw [← encode_of_decode h, encode_toNat]
    have := i.imm16.isLt
    omega
  have hbyte {w : Word} {i : Instr} {b : Byte} (h : decode w = .ok i) (hb : i.imm16 = byteImm b) :
      b.toNat = w.toNat % 2 ^ 8 := by
    have hw := himm h
    rw [hb, byteImm_toNat] at hw
    omega
  exact ⟨fun _ => wellFormedWord_iff_toNat, fun _ => wellFormedWord_iff_decode, fun _ _ h => hbyte h rfl,
    fun _ _ h => hbyte h rfl, fun _ _ h => (himm h).symm⟩

/-- Settles O1: each word is the encoding of its command. -/
theorem opcodeMapWordsDecode : Obligations.OpcodeMapWordsDecode :=
  ⟨decode_encode (.openWith 64#16), decode_encode (.openWith 0xFFFF#16), decode_encode .close,
    decode_encode (.push 0x2F#8), decode_encode (.push 0xFF#8), decode_encode .pktAttach, decode_encode .pktDetach,
    decode_encode .errAttach, decode_encode .errDetach, decode_encode .crcCreate, decode_encode (.crcUpdate 0x48#8),
    decode_encode .crcFinal⟩

end Sys2Proof

namespace Sys2Proof.Machine

/-! ## The step on a command word -/

/-- From a launch state a legal word runs its command. -/
theorem step_of_decode {s : State} {w : Word} {rest : List Input} {i : Instr} (hl : launchable s = true)
    (hin : s.inputs = .command w :: rest) (hw : decode w = .ok i) : step s = exec i (withInputs rest s) := by
  rw [step_command hl hin, runWord_ok _ hw]

/-- From a launch state an illegal word is answered INVALID_ARG. -/
theorem step_of_not_wellFormed {s : State} {w : Word} {rest : List Input} (hl : launchable s = true)
    (hin : s.inputs = .command w :: rest) (hw : wellFormedWord w = false) :
    step s = raiseInvalidArg (withInputs rest s) := by
  obtain ⟨e, he⟩ := decode_of_not_wellFormed hw
  rw [step_command hl hin, runWord_error _ he]

/-- Settles O5: each class of R88 breaks one of the conditions on the word's number, and the step answers an illegal
word before it looks at a register. -/
theorem illegalWordAnswersInvalidArg : Obligations.IllegalWordAnswersInvalidArg := by
  unfold Obligations.IllegalWordAnswersInvalidArg
  refine ⟨fun w hw h => ?_, fun w hge hle => Bool.eq_false_iff.mpr fun hw => ?_,
    fun w hge => Bool.eq_false_iff.mpr fun hw => ?_, fun w h => Bool.eq_false_iff.mpr fun hw => ?_,
    fun w hc8 h => Bool.eq_false_iff.mpr fun hw => ?_, fun w hc0 h => Bool.eq_false_iff.mpr fun hw => ?_,
    fun s w rest hl hin hw => step_of_not_wellFormed hl hin hw⟩
  · have := opNumber_of_wellFormed hw; omega
  · have := opNumber_of_wellFormed hw; omega
  · have := opNumber_of_wellFormed hw; omega
  · obtain ⟨-, hrsv, -⟩ := wellFormedWord_iff_toNat.mp hw
    exact h hrsv
  · obtain ⟨-, -, hhigh, -⟩ := wellFormedWord_iff_toNat.mp hw
    exact h (hhigh hc8)
  · obtain ⟨-, -, -, himm⟩ := wellFormedWord_iff_toNat.mp hw
    exact h (himm hc0)

/-- Settles O7: the step of a legal word, with giving the word up written out. -/
theorem stepRunsTheDecodedCommand : Obligations.StepRunsTheDecodedCommand :=
  fun _ _ _ _ => step_of_decode

theorem decode_of_decodeTableWord {nbits w : Nat} {i : Instr} (h : decodeTableWord nbits w = some i) :
    decode (tableWord nbits w) = .ok i := by
  unfold decodeTableWord at h
  rcases decode_cases (tableWord nbits w) with ⟨j, hj⟩ | ⟨e, he⟩
  · rw [hj] at h ⊢
    exact congrArg _ (Option.some.inj h)
  · simp [he, Except.toOption] at h

/-- Settles O9: the placed word is the oldest input, and giving it up leaves the state itself. -/
theorem placedWordIsRunNext : Obligations.PlacedWordIsRunNext :=
  fun s w _ hl hw => step_of_decode (s := placeCommand (tableWord 32 w) s) hl rfl (decode_of_decodeTableWord hw)

/-- Settles O6: the tables of R80, R91 and R92 are the definitions, and each state's code names it. -/
theorem stateKindAndStatusCodes : Obligations.StateKindAndStatusCodes :=
  ⟨⟨rfl, rfl, rfl, rfl, rfl, rfl⟩, ofCode_code, ofCode_eq_none.mpr (.inl rfl), ofCode_eq_none.mpr (.inr rfl),
    ⟨rfl, rfl, rfl, rfl⟩, rfl, rfl⟩

end Sys2Proof.Machine
end

section
/-! SUPPORT. The frame wire format: the valid frames are the built ones (O20). -/

namespace Sys2Proof

/-! ## Little-endian values and their bytes -/

theorem getLsbD_le16 (b0 b1 : Byte) (i : Nat) :
    (le16 b0 b1).getLsbD i = if i < 8 then b0.getLsbD i else b1.getLsbD (i - 8) := by
  simp only [le16, BitVec.getLsbD_or, BitVec.getLsbD_setWidth, BitVec.getLsbD_shiftLeft]
  grind

theorem getLsbD_le32 (b0 b1 b2 b3 : Byte) (i : Nat) :
    (le32 b0 b1 b2 b3).getLsbD i =
      if i < 8 then b0.getLsbD i else if i < 16 then b1.getLsbD (i - 8)
      else if i < 24 then b2.getLsbD (i - 16) else b3.getLsbD (i - 24) := by
  simp only [le32, BitVec.getLsbD_or, BitVec.getLsbD_setWidth, BitVec.getLsbD_shiftLeft]
  grind

@[simp] theorem le16_bytesOfHalf (v : Half) : le16 (v.extractLsb' 0 8) (v.extractLsb' 8 8) = v := by
  refine BitVec.eq_of_getLsbD_eq fun i hi => ?_
  simp only [getLsbD_le16, BitVec.getLsbD_extractLsb']
  grind

@[simp] theorem le32_bytesOfWord (v : Word) :
    le32 (v.extractLsb' 0 8) (v.extractLsb' 8 8) (v.extractLsb' 16 8) (v.extractLsb' 24 8) = v := by
  refine BitVec.eq_of_getLsbD_eq fun i hi => ?_
  simp only [getLsbD_le32, BitVec.getLsbD_extractLsb']
  grind

theorem extractLsb'_eq_of_getLsbD {n : Nat} {v : BitVec n} {k : Nat} {b : Byte}
    (h : ∀ i < 8, v.getLsbD (k + i) = b.getLsbD i) : v.extractLsb' k 8 = b :=
  BitVec.eq_of_getLsbD_eq fun i hi => by rw [BitVec.getLsbD_extractLsb', h i hi]; simp [hi]

theorem bytesOfHalf_le16 (b0 b1 : Byte) : bytesOfHalf (le16 b0 b1) = [b0, b1] := by
  rw [bytesOfHalf, extractLsb'_eq_of_getLsbD (b := b0), extractLsb'_eq_of_getLsbD (b := b1)] <;>
    grind [getLsbD_le16]

theorem bytesOfWord_le32 (b0 b1 b2 b3 : Byte) : bytesOfWord (le32 b0 b1 b2 b3) = [b0, b1, b2, b3] := by
  rw [bytesOfWord, extractLsb'_eq_of_getLsbD (b := b0), extractLsb'_eq_of_getLsbD (b := b1),
    extractLsb'_eq_of_getLsbD (b := b2), extractLsb'_eq_of_getLsbD (b := b3)] <;> grind [getLsbD_le32]

/-- Two bytes are those of a 16-bit value. -/
theorem exists_bytesOfHalf {l : List Byte} (h : l.length = 2) : ∃ v, l = bytesOfHalf v := by
  obtain ⟨b0, b1, rfl⟩ := List.length_eq_two.mp h
  exact ⟨le16 b0 b1, (bytesOfHalf_le16 b0 b1).symm⟩

/-- Four bytes are those of a 32-bit value. -/
theorem exists_bytesOfWord {l : List Byte} (h : l.length = 4) : ∃ v, l = bytesOfWord v := by
  obtain ⟨b0, b1, b2, b3, rfl⟩ := List.length_eq_four.mp h
  exact ⟨le32 b0 b1 b2 b3, (bytesOfWord_le32 b0 b1 b2 b3).symm⟩

end Sys2Proof

namespace Sys2Proof.Machine.Frame

/-! ## The layout of R70, for any length and checksum field -/

/-- The bytes of R70's table before the checksum field, with any length field. -/
def fieldsBeforeChecksum (len : Half) (t0 t1 t2 : Byte) (body : List Byte) : List Byte :=
  Config.header ++ bytesOfHalf len ++ [t0, t1, t2] ++ body

/-- The fields of R70's table laid out, with any length field and any checksum field. -/
def fields (len : Half) (t0 t1 t2 : Byte) (body : List Byte) (sum : Word) : List Byte :=
  fieldsBeforeChecksum len t0 t1 t2 body ++ (bytesOfWord sum ++ Config.trailer)

/-- The built frame has the body's length and the checksum in those fields. -/
theorem build_eq_fields (t0 t1 t2 : Byte) (body : List Byte) :
    build t0 t1 t2 body =
      fields (BitVec.ofNat 16 body.length) t0 t1 t2 body
        (checksum (fieldsBeforeChecksum (BitVec.ofNat 16 body.length) t0 t1 t2 body)) :=
  List.append_assoc _ _ _

@[simp] theorem fieldsBeforeChecksum_length (len : Half) (t0 t1 t2 : Byte) (body : List Byte) :
    (fieldsBeforeChecksum len t0 t1 t2 body).length = body.length + 7 := by
  simp [fieldsBeforeChecksum, Config.header, bytesOfHalf]

@[simp] theorem fields_length (len : Half) (t0 t1 t2 : Byte) (body : List Byte) (sum : Word) :
    (fields len t0 t1 t2 body sum).length = body.length + 13 := by
  simp [fields, Config.trailer, bytesOfWord]

theorem build_length (t0 t1 t2 : Byte) (body : List Byte) : (build t0 t1 t2 body).length = body.length + 13 := by
  rw [build_eq_fields, fields_length]

/-- The declared length does not wrap in its 17 bits (R72). -/
theorem declared_toNat (b2 b3 : Byte) : (declared b2 b3).toNat = 13 + (le16 b2 b3).toNat := by
  have := (le16 b2 b3).isLt
  simp only [declared, BitVec.toNat_add, BitVec.toNat_setWidth, BitVec.toNat_ofNat]
  omega

/-- A list from i on, cut k later. -/
theorem drop_eq_append_drop (f : List Byte) (i k : Nat) : f.drop i = (f.drop i).take k ++ f.drop (i + k) := by
  rw [← List.drop_drop, List.take_append_drop]

/-- A string of 13 bytes or more that begins and ends as a frame is some fields laid out. -/
theorem exists_fields {f : List Byte} (h : 13 ≤ f.length) (hh : f.take 2 = Config.header)
    (ht : f.drop (f.length - 2) = Config.trailer) : ∃ len t0 t1 t2 body sum, f = fields len t0 t1 t2 body sum := by
  obtain ⟨n, hn⟩ := Nat.exists_eq_add_of_le' h
  have htail : f.drop (7 + n + 4) = Config.trailer := by rw [← ht, hn]; congr 1; omega
  obtain ⟨len, hlen⟩ := exists_bytesOfHalf (l := (f.drop 2).take 2) (by simp [hn])
  obtain ⟨t0, t1, t2, htype⟩ := List.length_eq_three.mp (show ((f.drop 4).take 3).length = 3 by simp [hn])
  obtain ⟨sum, hsum⟩ := exists_bytesOfWord (l := (f.drop (7 + n)).take 4) (by simp [hn]; omega)
  refine ⟨len, t0, t1, t2, (f.drop 7).take n, sum, ?_⟩
  calc f = f.take 2 ++ ((f.drop 2).take 2 ++ ((f.drop 4).take 3 ++ ((f.drop 7).take n ++
          ((f.drop (7 + n)).take 4 ++ f.drop (7 + n + 4))))) := by
        rw [← drop_eq_append_drop f (7 + n) 4, ← drop_eq_append_drop f 7 n, ← drop_eq_append_drop f 4 3,
          ← drop_eq_append_drop f 2 2, List.take_append_drop]
    _ = fields len t0 t1 t2 ((f.drop 7).take n) sum := by
        simp only [hh, hlen, htype, hsum, htail, fields, fieldsBeforeChecksum, List.append_assoc]

/-! ### The parts of a layout that R78 looks at -/

theorem take_fields (len : Half) (t0 t1 t2 : Byte) (body : List Byte) (sum : Word) :
    (fields len t0 t1 t2 body sum).take (body.length + 7) = fieldsBeforeChecksum len t0 t1 t2 body :=
  List.take_left' (fieldsBeforeChecksum_length len t0 t1 t2 body)

theorem drop_fields (len : Half) (t0 t1 t2 : Byte) (body : List Byte) (sum : Word) :
    (fields len t0 t1 t2 body sum).drop (body.length + 11) = Config.trailer := by
  rw [fields, ← List.append_assoc]
  exact List.drop_left' (by simp [bytesOfWord])

/-- The checksum field and the trailer follow the rest. -/
theorem fields_getD (len : Half) (t0 t1 t2 : Byte) (body : List Byte) (sum : Word) (k : Nat) :
    (fields len t0 t1 t2 body sum).getD (body.length + 7 + k) 0#8 = (bytesOfWord sum ++ Config.trailer).getD k 0#8 := by
  rw [fields, List.getD_append_right _ _ _ _ (by simp), fieldsBeforeChecksum_length, Nat.add_sub_cancel_left]

/-- What R78 asks of a string laid out as R70 says. -/
theorem valid_fields_iff (cap len : Half) (t0 t1 t2 : Byte) (body : List Byte) (sum : Word) :
    valid cap (fields len t0 t1 t2 body sum) = true ↔
      body.length = len.toNat ∧ body.length + 13 ≤ cap.toNat ∧
        sum = checksum (fieldsBeforeChecksum len t0 t1 t2 body) := by
  have hdeclared : (declared ((fields len t0 t1 t2 body sum).getD 2 0#8)
      ((fields len t0 t1 t2 body sum).getD 3 0#8)).toNat = 13 + len.toNat := by
    rw [declared_toNat]
    exact congrArg (13 + BitVec.toNat ·) (le16_bytesOfHalf len)
  have hsum : le32 ((fields len t0 t1 t2 body sum).getD (body.length + 7) 0#8)
      ((fields len t0 t1 t2 body sum).getD (body.length + 8) 0#8)
      ((fields len t0 t1 t2 body sum).getD (body.length + 9) 0#8)
      ((fields len t0 t1 t2 body sum).getD (body.length + 10) 0#8) = sum := by
    rw [fields_getD _ _ _ _ _ _ 0, fields_getD _ _ _ _ _ _ 1, fields_getD _ _ _ _ _ _ 2, fields_getD _ _ _ _ _ _ 3]
    exact le32_bytesOfWord sum
  have hhead : (fields len t0 t1 t2 body sum).take 2 = Config.header := rfl
  have hlen : body.length + 13 = 13 + len.toNat ↔ body.length = len.toNat := by omega
  simp only [valid, fields_length, hdeclared, hhead, Nat.reduceSubDiff, hsum, take_fields, drop_fields]
  simp [hlen, and_assoc]

/-- The parts of R78 that say where a string begins and ends. -/
theorem bounds_of_valid {cap : Half} {f : List Byte} (h : valid cap f = true) :
    13 ≤ f.length ∧ f.take 2 = Config.header ∧ f.drop (f.length - 2) = Config.trailer := by
  simp only [valid, Bool.and_eq_true, Nat.ble_eq, beq_iff_eq] at h
  obtain ⟨⟨⟨⟨⟨hlen, hhead⟩, -⟩, -⟩, -⟩, htail⟩ := h
  exact ⟨hlen, hhead, htail⟩

/-- A built frame that fits the capacity is valid. -/
theorem valid_build {cap : Half} (t0 t1 t2 : Byte) {body : List Byte} (h : body.length + 13 ≤ cap.toNat) :
    valid cap (build t0 t1 t2 body) = true := by
  have hlen : body.length = (BitVec.ofNat 16 body.length).toNat := by
    have := cap.isLt
    rw [BitVec.toNat_ofNat, Nat.mod_eq_of_lt (by omega)]
  rw [build_eq_fields, valid_fields_iff]
  exact ⟨hlen, h, rfl⟩

/-- Settles O20: a valid frame is some fields laid out (`exists_fields`), and R78 fixes its length and checksum fields to
those of the built frame. -/
theorem validFramesAreTheBuiltOnes : Obligations.ValidFramesAreTheBuiltOnes := by
  unfold Obligations.ValidFramesAreTheBuiltOnes
  refine fun cap f => ⟨fun h => ?_, fun ⟨t0, t1, t2, body, hfits, hf⟩ => hf ▸ valid_build t0 t1 t2 hfits⟩
  obtain ⟨hlen, hhead, htail⟩ := bounds_of_valid h
  obtain ⟨len, t0, t1, t2, body, sum, rfl⟩ := exists_fields hlen hhead htail
  obtain ⟨hbody, hfits, rfl⟩ := (valid_fields_iff cap len t0 t1 t2 body sum).mp h
  have hofNat : BitVec.ofNat 16 body.length = len := by rw [hbody, BitVec.ofNat_toNat, BitVec.setWidth_eq]
  exact ⟨t0, t1, t2, body, hfits, by rw [build_eq_fields, hofNat]⟩

end Sys2Proof.Machine.Frame
end

section
/-! SUPPORT. The assembler: the words it emits (O55), and what each pseudo-instruction expands to (O56). -/

namespace Sys2Proof.Machine.Asm

/-! ## The words of the lines -/

theorem map_eq_ok {ε α β : Type} {x : Except ε α} {f : α → β} {b : β} (h : x.map f = .ok b) :
    ∃ a, x = .ok a ∧ f a = b := by
  cases x with
  | error e => cases h
  | ok a => exact ⟨a, rfl, Except.ok.inj h⟩

/-- The words of a line are encodings of commands. -/
theorem assembleWords_encodes {line : List Char} {ws : List Word} (h : assembleWords line = .ok ws) :
    ∃ is : List Instr, ws = is.map encode := by
  obtain ⟨is, -, rfl⟩ := map_eq_ok h
  exact ⟨is, rfl⟩

/-- The words of a list of lines are encodings of commands. -/
theorem assemble_encodes {lines : List (List Char)} {ws : List Word} (h : assemble lines = .ok ws) :
    ∃ is : List Instr, ws = is.map encode := by
  induction lines generalizing ws with
  | nil => exact ⟨[], (Except.ok.inj h).symm⟩
  | cons line lines ih =>
    unfold assemble at h
    split at h
    · cases h
    · rename_i first hfirst
      obtain ⟨more, hmore, rfl⟩ := map_eq_ok h
      obtain ⟨is, rfl⟩ := assembleWords_encodes hfirst
      obtain ⟨js, rfl⟩ := ih hmore
      exact ⟨is ++ js, List.map_append.symm⟩

/-- Settles O55: every emitted word is the encoding of a command, and such a word is well-formed. -/
theorem assembledWordsAreWellFormed : Obligations.AssembledWordsAreWellFormed := by
  unfold Obligations.AssembledWordsAreWellFormed
  intro lines ws h w hw
  obtain ⟨is, rfl⟩ := assemble_encodes h
  obtain ⟨i, -, rfl⟩ := List.mem_map.mp hw
  exact encode_wellFormed i

/-! ## The pseudo-instructions -/

/-- A byte written as a number is that byte operand. -/
theorem byteArg_number (b : Byte) : byteArg (.number b.toNat) = .ok b := by
  have hb : b.toNat ≤ 255 := Nat.le_of_lt_succ b.isLt
  rw [byteArg, if_pos hb, BitVec.ofNat_toNat, BitVec.setWidth_eq]

theorem byteArgs_numbers (bytes : List Byte) : byteArgs (bytes.map fun b => .number b.toNat) = .ok bytes := by
  induction bytes with
  | nil => rfl
  | cons b bytes ih => simp [byteArgs, byteArg_number, ih, Except.map]

theorem expand_pushb {bytes : List Byte} (h : bytes ≠ []) :
    expand .pushb (bytes.map fun b => .number b.toNat) = .ok (bytes.map .push) := by
  obtain ⟨b, bytes, rfl⟩ := List.exists_cons_of_ne_nil h
  calc expand .pushb ((b :: bytes).map fun b => .number b.toNat)
      = (byteArgs ((b :: bytes).map fun b => .number b.toNat)).map (List.map .push) := rfl
    _ = .ok ((b :: bytes).map .push) := by rw [byteArgs_numbers]; rfl

theorem expand_frame (t0 t1 t2 : Byte) {body : List Byte} (h : body.length ≤ 65535) :
    expand .frame [.number t0.toNat, .number t1.toNat, .number t2.toNat, .text body] =
      .ok ((Frame.build t0 t1 t2 body).map .push) := by
  have htypes : byteArgs [.number t0.toNat, .number t1.toNat, .number t2.toNat] = .ok [t0, t1, t2] :=
    byteArgs_numbers [t0, t1, t2]
  simp [expand, frameCommands, htypes, h]

/-- Settles O56: the list of bytes for PUSHB and FRAME is read back from the numbers written, and the frame FRAME pushes
is one that `valid_build` shows valid. -/
theorem pseudoInstructionsExpand : Obligations.PseudoInstructionsExpand :=
  ⟨fun _ => rfl, fun _ => expand_pushb, fun _ => rfl,
    fun t0 t1 t2 body h => ⟨Frame.build t0 t1 t2 body, expand_frame t0 t1 t2 h, rfl,
      fun hfits => Frame.valid_build t0 t1 t2 hfits⟩,
    rfl, rfl, rfl⟩

end Sys2Proof.Machine.Asm
end

section
/-! SUPPORT. The Checksum Engine: the bit loop is a table look-up (O13), updates over byte strings (O12, O14), the three
host commands (O16 to O18), and a run of CRC_UPDATE words from the port (O19). -/

namespace Sys2Proof.Machine

/-! ## The bit loop

A shift step is linear over XOR and is a plain right shift where the lowest bit is 0. So n steps shift the upper bits
out unchanged, and only the n lowest bits choose what is XORed in. -/

theorem crcShift_of_even {x : Word} (h : x.getLsbD 0 = false) : crcShift x = x >>> 1 :=
  if_neg (by rw [h]; decide)

theorem crcShift_of_odd {x : Word} (h : x.getLsbD 0 = true) : crcShift x = (x >>> 1) ^^^ Config.crcPolynomial :=
  if_pos h

theorem crcShift_xor (x y : Word) : crcShift (x ^^^ y) = crcShift x ^^^ crcShift y := by
  have hbit : (x ^^^ y).getLsbD 0 = (x.getLsbD 0 ^^ y.getLsbD 0) := BitVec.getLsbD_xor
  have hshift : (x ^^^ y) >>> 1 = (x >>> 1) ^^^ (y >>> 1) := BitVec.ushiftRight_xor_distrib ..
  cases hx : x.getLsbD 0 <;> cases hy : y.getLsbD 0 <;> rw [hx, hy] at hbit
  · rw [crcShift_of_even hbit, crcShift_of_even hx, crcShift_of_even hy, hshift]
  · rw [crcShift_of_odd hbit, crcShift_of_even hx, crcShift_of_odd hy, hshift, BitVec.xor_assoc]
  · rw [crcShift_of_odd hbit, crcShift_of_odd hx, crcShift_of_even hy, hshift]
    ac_rfl
  · rw [crcShift_of_even hbit, crcShift_of_odd hx, crcShift_of_odd hy, hshift]
    calc x >>> 1 ^^^ y >>> 1
        = x >>> 1 ^^^ y >>> 1 ^^^ (Config.crcPolynomial ^^^ Config.crcPolynomial) := by simp
      _ = _ := by ac_rfl

theorem crcShifts_xor (n : Nat) (x y : Word) : crcShifts n (x ^^^ y) = crcShifts n x ^^^ crcShifts n y := by
  induction n generalizing x y with
  | zero => rfl
  | succ n ih => simp only [crcShifts, crcShift_xor, ih]

/-- Steps over bits that are all 0 XOR nothing in. -/
theorem crcShifts_of_lowBits_zero {n : Nat} {x : Word} (h : ∀ i < n, x.getLsbD i = false) :
    crcShifts n x = x >>> n := by
  induction n generalizing x with
  | zero => simp [crcShifts]
  | succ n ih =>
    have hrest : ∀ i < n, (x >>> 1).getLsbD i = false := fun i hi => by
      rw [BitVec.getLsbD_ushiftRight]
      exact h (1 + i) (by omega)
    calc crcShifts (n + 1) x
        = crcShifts n (x >>> 1) := congrArg _ (crcShift_of_even (h 0 n.succ_pos))
      _ = x >>> 1 >>> n := ih hrest
      _ = x >>> (n + 1) := by rw [← BitVec.shiftRight_add, Nat.add_comm]

theorem setWidth_ushiftRight_width {n : Nat} (c : BitVec n) : c.setWidth 32 >>> n = 0#32 := by
  ext i hi
  simp

/-- n steps: the upper bits shifted down, and what the n lowest bits alone give. -/
theorem crcShifts_eq_shift_xor_low (n : Nat) (x : Word) :
    crcShifts n x = x >>> n ^^^ crcShifts n ((x.setWidth n).setWidth 32) := by
  generalize hlow : (x.setWidth n).setWidth 32 = low
  have hupper : ∀ i < n, (x ^^^ low).getLsbD i = false := fun i hi => by
    simpa [← hlow, BitVec.getLsbD_setWidth, hi] using BitVec.lt_of_getLsbD
  have hshift : (x ^^^ low) >>> n = x >>> n := by
    rw [BitVec.ushiftRight_xor_distrib, ← hlow, setWidth_ushiftRight_width, BitVec.xor_zero]
  calc crcShifts n x
      = crcShifts n ((x ^^^ low) ^^^ low) := by simp
    _ = x >>> n ^^^ crcShifts n low := by rw [crcShifts_xor, crcShifts_of_lowBits_zero hupper, hshift]

/-- Settles O13: the byte is shifted out with the eight lowest bits, and the look-up is the step from register 0. -/
theorem crcStepIsATableLookup : Obligations.CrcStepIsATableLookup := by
  unfold Obligations.CrcStepIsATableLookup
  intro reg b
  have hshift : (reg ^^^ b.setWidth 32) >>> 8 = reg >>> 8 := by
    rw [BitVec.ushiftRight_xor_distrib, setWidth_ushiftRight_width, BitVec.xor_zero]
  rw [crcStep, crcShifts_eq_shift_xor_low, hshift, crcStep, BitVec.zero_xor]

/-! ## Updates over byte strings -/

@[simp] theorem crcUpdate_nil (reg : Word) : crcUpdate reg [] = reg := rfl

@[simp] theorem crcUpdate_cons (reg : Word) (b : Byte) (t : List Byte) :
    crcUpdate reg (b :: t) = crcUpdate (crcStep reg b) t := rfl

theorem crcUpdate_append (reg : Word) (s t : List Byte) :
    crcUpdate reg (s ++ t) = crcUpdate (crcUpdate reg s) t := List.foldl_append

/-- The bytes 0x00 and 0x01 from register 0, in one order and in the other. -/
theorem crcUpdate_order_sensitive :
    crcUpdate (crcUpdate 0#32 [0x00#8]) [0x01#8] ≠ crcUpdate (crcUpdate 0#32 [0x01#8]) [0x00#8] := by decide +kernel

/-- Settles O12: an update is a left fold, and `crcUpdate_order_sensitive` gives two strings whose order matters. -/
theorem crcUpdateSplitsOverConcatenation : Obligations.CrcUpdateSplitsOverConcatenation :=
  ⟨crcUpdate_nil, crcUpdate_cons, fun reg s t => (crcUpdate_append reg s t).symm, _, _, _,
    crcUpdate_order_sensitive⟩

/-- The register after the 13 reference bytes (R117, R118). -/
theorem crcUpdate_reference :
    crcUpdate 0xFFFFFFFF#32
        [0x48#8, 0x65#8, 0x6C#8, 0x6C#8, 0x6F#8, 0x2C#8, 0x20#8, 0x57#8, 0x6F#8, 0x72#8, 0x6C#8, 0x64#8, 0x21#8] =
      0x13B53C2F#32 := by decide +kernel

/-- Settles O14: the register after the reference bytes, finalized. -/
theorem crcOfTheReferenceBytes : Obligations.CrcOfTheReferenceBytes :=
  congrArg crcFinalize crcUpdate_reference

/-! ## The three host commands -/

theorem decode_eq_ok_iff_eq_encode {w : Word} {i : Instr} : decode w = .ok i ↔ w = encode i :=
  ⟨fun h => (encode_of_decode h).symm, fun h => h ▸ decode_encode i⟩

theorem encode_crcUpdate (b : Byte) : encode (.crcUpdate b) = 0x11000000#32 ||| b.setWidth 32 := by
  have hb : b.toNat < 2 ^ 24 := b.isLt.trans (by decide)
  apply BitVec.eq_of_toNat_eq
  calc (encode (.crcUpdate b)).toNat
      = 0x11 * 2 ^ 24 + (byteImm b).toNat := encode_toNat _
    _ = 2 ^ 24 * 0x11 + b.toNat := by rw [byteImm_toNat, Nat.mul_comm]
    _ = 2 ^ 24 * 0x11 ||| b.toNat := Nat.two_pow_add_eq_or_of_lt hb 0x11
    _ = (0x11000000#32 ||| b.setWidth 32).toNat := by
      rw [BitVec.toNat_or, BitVec.toNat_setWidth_of_le (by decide)]
      rfl

/-- Settles O16: the one word is the encoding, and exec answers with HCRC at its initial value. -/
theorem crcCreateStartsAfresh : Obligations.CrcCreateStartsAfresh :=
  ⟨fun _ => decode_eq_ok_iff_eq_encode, fun _ => ExecAnswer.crcCreate.exec_eq⟩

/-- Settles O17: the words are the encodings, exec answers with one step of HCRC, and the rule's values are computed. -/
theorem crcUpdateConsumesOneByte : Obligations.CrcUpdateConsumesOneByte :=
  ⟨fun _ b => encode_crcUpdate b ▸ decode_eq_ok_iff_eq_encode, fun b _ => (ExecAnswer.crcUpdate b).exec_eq,
    by decide, by decide, fun _ => rfl⟩

/-- Settles O18: the response finalizes HCRC, which the next state still holds. -/
theorem crcFinalReadsTheChecksum : Obligations.CrcFinalReadsTheChecksum := by
  unfold Obligations.CrcFinalReadsTheChecksum
  refine ⟨fun _ => decode_eq_ok_iff_eq_encode, fun _ => ExecAnswer.crcFinal.exec_eq, fun s t h => ?_, by decide,
    crcUpdate_reference, by decide⟩
  cases execAnswer_of_next h
  exact ExecAnswer.crcFinal.exec_eq

/-! ## Runs of CRC_UPDATE words -/

/-- s after the CRC_UPDATE words of a byte string have been taken from the port, rest still waiting. -/
def afterCrcUpdates (bytes : List Byte) (rest : List Input) (s : State) : State :=
  { s with
    inputs := rest
    hcrc := crcUpdate s.hcrc bytes
    outputs := s.outputs ++ List.replicate bytes.length okResponse }

theorem run_succ_of_step {n : Nat} {s t : State} (h : step s = .next t) :
    Sys2Proof.core.run (n + 1) s = Sys2Proof.core.run n t := by
  simp [Host.Core.run, Sys2Proof.core, h]

/-- One CRC_UPDATE word at the port of a launch state. -/
theorem step_crcUpdate {s : State} {b : Byte} {rest : List Input} (hl : launchable s = true)
    (hin : s.inputs = .command (encode (.crcUpdate b)) :: rest) :
    step s = .next (afterCrcUpdates [b] rest s) :=
  (step_of_decode hl hin (decode_encode _)).trans (ExecAnswer.crcUpdate b).exec_eq

@[simp] theorem launchable_afterCrcUpdates (bytes : List Byte) (rest : List Input) (s : State) :
    launchable (afterCrcUpdates bytes rest s) = launchable s := rfl

theorem afterCrcUpdates_nil (s : State) : afterCrcUpdates [] s.inputs s = s := by
  simp [afterCrcUpdates]

theorem afterCrcUpdates_cons (b : Byte) (bytes : List Byte) (mid rest : List Input) (s : State) :
    afterCrcUpdates bytes rest (afterCrcUpdates [b] mid s) = afterCrcUpdates (b :: bytes) rest s := by
  simp [afterCrcUpdates, List.replicate_succ]

theorem run_crcUpdates {bytes : List Byte} {s : State} {rest : List Input} (hl : launchable s = true)
    (hin : s.inputs = bytes.map (fun b => .command (encode (.crcUpdate b))) ++ rest) :
    Sys2Proof.core.run bytes.length s = .next (afterCrcUpdates bytes rest s) := by
  induction bytes generalizing s with
  | nil =>
    rw [List.map_nil, List.nil_append] at hin
    rw [← hin, afterCrcUpdates_nil]
    rfl
  | cons b bytes ih =>
    rw [List.map_cons, List.cons_append] at hin
    calc Sys2Proof.core.run (bytes.length + 1) s
        = Sys2Proof.core.run bytes.length (afterCrcUpdates [b] _ s) := run_succ_of_step (step_crcUpdate hl hin)
      _ = .next (afterCrcUpdates bytes rest _) := ih ((launchable_afterCrcUpdates ..).trans hl) rfl
      _ = .next (afterCrcUpdates (b :: bytes) rest s) := congrArg _ (afterCrcUpdates_cons ..)

/-- Settles O19: one step per byte, each from a launch state again; CRC_UPDATES is expanded by its definition. -/
theorem crcUpdatesRunOverAByteString : Obligations.CrcUpdatesRunOverAByteString :=
  ⟨fun _ _ _ => run_crcUpdates, fun _ => rfl⟩

end Sys2Proof.Machine
end

section
/-! SUPPORT. Two byte strings that differ in one byte have different checksums (O15). -/

namespace Sys2Proof.Machine

/-! ## A shift step loses nothing

The polynomial's highest bit is 1, and a right shift leaves a 0 there: that bit tells what has been shifted out. -/

theorem crcShift_eq_zero {x : Word} (h : crcShift x = 0#32) : x = 0#32 := by
  cases hlow : x.getLsbD 0 with
  | true =>
    rw [crcShift_of_odd hlow] at h
    have htop : (x >>> 1 ^^^ Config.crcPolynomial).getLsbD 31 = true := by
      simp [Config.crcPolynomial]
    simp [h] at htop
  | false =>
    rw [crcShift_of_even hlow] at h
    refine BitVec.eq_of_getLsbD_eq fun i _ => ?_
    cases i with
    | zero => exact hlow
    | succ i =>
      have hbit : (x >>> 1).getLsbD i = false := by rw [h]; exact BitVec.getLsbD_zero
      rw [BitVec.getLsbD_ushiftRight, Nat.add_comm] at hbit
      exact hbit.trans BitVec.getLsbD_zero.symm

theorem crcShifts_eq_zero {n : Nat} {x : Word} (h : crcShifts n x = 0#32) : x = 0#32 := by
  induction n generalizing x with
  | zero => exact h
  | succ n ih => exact crcShift_eq_zero (ih h)

/-- A linear map that sends only 0 to 0 is injective. -/
theorem crcShifts_injective (n : Nat) : Function.Injective (crcShifts n) := fun x y h => by
  have hdiff : crcShifts n (x ^^^ y) = 0#32 := by rw [crcShifts_xor, h, BitVec.xor_self]
  exact BitVec.xor_eq_zero_iff.mp (crcShifts_eq_zero hdiff)

theorem crcStep_injective_register (b : Byte) : Function.Injective (crcStep · b) := fun _ _ h =>
  BitVec.xor_left_inj _ |>.mp (crcShifts_injective 8 h)

theorem crcStep_injective_byte (reg : Word) : Function.Injective (crcStep reg) := fun b c h => by
  have hwide : b.setWidth 32 = c.setWidth 32 := (BitVec.xor_right_inj reg).mp (crcShifts_injective 8 h)
  simpa using congrArg (BitVec.setWidth 8) hwide

theorem crcUpdate_injective (t : List Byte) : Function.Injective (crcUpdate · t) := by
  induction t with
  | nil => exact fun _ _ h => h
  | cons b t ih => exact fun _ _ h => crcStep_injective_register b (ih h)

/-- The checksum's final XOR loses nothing either. -/
theorem crcFinalize_injective : Function.Injective crcFinalize := fun _ _ h => (BitVec.xor_left_inj _).mp h

/-- Settles O15: the registers after the two bytes differ, and neither the rest of the string nor the final XOR makes
them equal again. -/
theorem oneChangedByteChangesTheCrc : Obligations.OneChangedByteChangesTheCrc := by
  unfold Obligations.OneChangedByteChangesTheCrc
  intro p q b c hbc h
  have hreg : crcUpdate Config.crcInit (p ++ b :: q) = crcUpdate Config.crcInit (p ++ c :: q) := crcFinalize_injective h
  rw [crcUpdate_append, crcUpdate_append, crcUpdate_cons, crcUpdate_cons] at hreg
  exact hbc (crcStep_injective_byte _ (crcUpdate_injective q hreg))

end Sys2Proof.Machine
end

section
/-! SUPPORT. An open block of R31 in a parser state: what its PUSH runs, and how an accepted byte moves it on. -/

namespace Sys2Proof.Machine

/-- An open block that meets R31, in parser state p. -/
structure Parsing (s : State) (p : ParserState) : Prop where
  opened : s.opened = true
  state : s.state = p.code
  cap_ge : 13 ≤ s.cap.toNat
  cap_le : s.cap.toNat ≤ s.maxCapacity
  listed : Memory.listedBelow s.buf s.cur.toNat = true
  row : rowHolds s p = true

theorem parsing_of_consistent {s : State} {p : ParserState} (ho : s.opened = true) (hc : consistent s = true)
    (hp : s.state = p.code) : Parsing s p := by
  rw [consistent_open ho hp, openConsistent_iff] at hc
  obtain ⟨hge, hle, hlist, hrow⟩ := hc
  exact ⟨ho, hp, hge, hle, hlist, hrow⟩

/-- An open block that meets R31 is in one of the six parser states. -/
theorem exists_parsing {s : State} (ho : s.opened = true) (hc : consistent s = true) : ∃ p, Parsing s p := by
  cases hp : ParserState.ofCode s.state with
  | none => simp [consistent, ho, hp] at hc
  | some p => exact ⟨p, parsing_of_consistent ho hc (ofCode_eq_some.mp hp)⟩

theorem Parsing.consistent {s : State} {p : ParserState} (h : Parsing s p) : consistent s = true := by
  rw [consistent_open h.opened h.state, openConsistent_iff]
  exact ⟨h.cap_ge, h.cap_le, h.listed, h.row⟩

/-- A response changes no register. -/
theorem parsing_respondOk {s : State} {p : ParserState} : Parsing (respondOk s) p ↔ Parsing s p :=
  ⟨fun h => ⟨h.opened, h.state, h.cap_ge, h.cap_le, h.listed, h.row⟩,
    fun h => ⟨h.opened, h.state, h.cap_ge, h.cap_le, h.listed, h.row⟩⟩

/-- Its PUSH runs the case of its parser state. -/
theorem Parsing.exec_push {s : State} {p : ParserState} (h : Parsing s p) (b : Byte) :
    exec (.push b) s = .next (respondOk (pushIn b s p)) :=
  execPush_open b h.opened h.state h.consistent

/-! ## What the rows say of the cursor -/

theorem rowHolds_cur_lt_cap {s : State} {p : ParserState} (h13 : 13 ≤ s.cap.toNat) (hrow : rowHolds s p = true) :
    s.cur.toNat < s.cap.toNat := by
  cases p with
  | seekHeader =>
    obtain ⟨-, hcur | ⟨hcur, -⟩⟩ := rowHolds_seekHeader.mp hrow <;> simp [hcur] <;> omega
  | readLength =>
    obtain ⟨-, hcur | hcur, -⟩ := rowHolds_readLength.mp hrow <;> simp [hcur] <;> omega
  | readType =>
    obtain ⟨hcur | hcur | hcur, -⟩ := rowHolds_readType.mp hrow <;> simp [hcur] <;> omega
  | readBody =>
    obtain ⟨-, hcur, hlen⟩ := rowHolds_readBody.mp hrow
    have := (dl_bounds_of_lengthHeld hlen).2
    omega
  | readChecksum =>
    obtain ⟨-, hcur, hlen⟩ := rowHolds_readChecksum.mp hrow
    have := (dl_bounds_of_lengthHeld hlen).2
    omega
  | seekTrailer =>
    obtain ⟨hcur, hlen, -⟩ := rowHolds_seekTrailer.mp hrow
    have := (dl_bounds_of_lengthHeld hlen).2
    omega

/-- The byte at the cursor is inside the capacity (R24). -/
theorem Parsing.cur_lt_cap {s : State} {p : ParserState} (h : Parsing s p) : s.cur.toNat < s.cap.toNat :=
  rowHolds_cur_lt_cap h.cap_ge h.row

theorem Parsing.cur_lt {s : State} {p : ParserState} (h : Parsing s p) : s.cur.toNat < 65535 := by
  have := h.cur_lt_cap
  have := s.cap.isLt
  omega

/-! ## An accepted byte, and a recovery -/

/-- After an accept, and whatever a check then does to STATE, DL and FCRC, the block is in parser state q if the
registers are those of q's row. -/
theorem Parsing.of_accept {s t : State} {p q : ParserState} (h : Parsing s p) (b : Byte)
    (ht : SameOutsideParser s t) (hst : t.state = q.code) (hcurt : t.cur = (accept b s).cur)
    (hbuf : t.buf = (accept b s).buf) (hrow : rowHolds t q = true) : Parsing t q := by
  obtain ⟨ho, hcap, -, -, -, hmax, -⟩ := ht
  refine ⟨ho.trans h.opened, hst, by rw [hcap]; exact h.cap_ge, by rw [hcap, hmax]; exact h.cap_le, ?_, hrow⟩
  rw [hbuf, hcurt, accept_cur_toNat b h.cur_lt]
  exact Memory.listedBelow_write b h.listed

theorem Parsing.accept_setParser {s : State} {p q : ParserState} (h : Parsing s p) (b : Byte)
    (hrow : rowHolds (accept b s) q = true) : Parsing (setParser q (accept b s)) q :=
  h.of_accept b ⟨rfl, rfl, rfl, rfl, rfl, rfl, rfl⟩ rfl rfl rfl hrow

/-- A parser state that is already held need not be set. -/
theorem setParser_accept_self {s : State} {p : ParserState} (hp : s.state = p.code) (b : Byte) :
    setParser p (accept b s) = accept b s := by
  rw [setParser, ← hp]; rfl

/-- An empty SeekHeader within the bounds of CAP. -/
theorem parsing_of_emptyParser {s : State} (ho : s.opened = true) (hge : 13 ≤ s.cap.toNat)
    (hle : s.cap.toNat ≤ s.maxCapacity) (h : EmptyParser s) : Parsing s .seekHeader := by
  obtain ⟨hst, hcur, hdl, -⟩ := h
  exact ⟨ho, hst, hge, hle, by simp [hcur], rowHolds_seekHeader.mpr ⟨hdl, .inl hcur⟩⟩

/-- After a recovery, with whatever was put out, the block takes the next frame. -/
theorem Parsing.of_recovered {s t : State} {p : ParserState} {outs : List Output} (h : Parsing s p)
    (ht : RecoveredTo s t outs) : Parsing t .seekHeader := by
  obtain ⟨hempty, ⟨ho, hcap, -, -, -, hmax, -⟩, -⟩ := ht
  exact parsing_of_emptyParser (ho.trans h.opened) (by rw [hcap]; exact h.cap_ge)
    (by rw [hcap, hmax]; exact h.cap_le) hempty

/-! ## The frame so far -/

/-- BUF[0..CUR). -/
def frameSoFar (s : State) : List Byte := bufTake s s.cur.toNat

@[simp] theorem frameSoFar_length (s : State) : (frameSoFar s).length = s.cur.toNat := bufTake_length s _

theorem cur_eq_length (s : State) : s.cur = BitVec.ofNat 16 (frameSoFar s).length := by
  rw [frameSoFar_length, BitVec.ofNat_toNat, BitVec.setWidth_eq]

theorem frameSoFar_accept {s : State} (b : Byte) (h : s.cur.toNat < 65535) :
    frameSoFar (accept b s) = frameSoFar s ++ [b] := by
  rw [frameSoFar, accept_cur_toNat b h, bufTake_accept_succ, frameSoFar]

/-- A byte below the cursor, read off the frame so far. -/
theorem bufRead_eq_getD {s : State} {i : Nat} (h : i < s.cur.toNat) : bufRead s i = (frameSoFar s).getD i 0#8 := by
  simp [frameSoFar, bufTake, List.getD, h]

theorem bufTake_eq_take {s : State} {n : Nat} (h : n ≤ s.cur.toNat) : bufTake s n = (frameSoFar s).take n := by
  rw [frameSoFar, bufTake, bufTake, ← List.map_take, List.take_range, Nat.min_eq_left h]

/-- The context record of a diagnostic whose cursor is inside the capacity holds the frame so far (R195). -/
theorem contextOf_eq {s : State} (d : BitVec 17) (h : s.cur.toNat ≤ s.cap.toNat) :
    contextOf d s = ⟨s.state, s.cur, d, frameSoFar s⟩ := by
  rw [contextOf, Nat.min_eq_left h, frameSoFar]

/-- A frame rejected at an accepted byte: the event has the state the byte arrived in and the bytes up to it. -/
theorem Parsing.reject_accept {s : State} {p : ParserState} (h : Parsing s p) (b : Byte) (k : ErrorKind)
    (d : BitVec 17) :
    RecoveredTo s (respondOk (diagnose k d (accept b s)))
      (ifAttached s.errAtt (.error ⟨k, ⟨s.state, s.cur + 1#16, d, frameSoFar s ++ [b]⟩⟩) ++ [okResponse]) := by
  have hcap : (accept b s).cur.toNat ≤ (accept b s).cap.toNat := by
    rw [accept_cur_toNat b h.cur_lt]
    exact h.cur_lt_cap
  have hrec := diagnose_recovers k d (accept b s)
  rw [contextOf_eq d hcap, frameSoFar_accept b h.cur_lt] at hrec
  exact hrec.of_accept

end Sys2Proof.Machine
end

section
/-! SUPPORT. PUSH in SeekHeader (O21 to O23), and runs of PUSHes. -/

namespace Sys2Proof.Machine

/-! ## SeekHeader, one byte -/

/-- SeekHeader holds no byte, or one 0x2F (R31). -/
theorem Parsing.seekHeader_cases {s : State} (h : Parsing s .seekHeader) :
    s.cur = 0#16 ∧ frameSoFar s = [] ∨ s.cur = 1#16 ∧ frameSoFar s = [Config.slash] := by
  obtain ⟨-, hcur | ⟨hcur, hslash⟩⟩ := rowHolds_seekHeader.mp h.row
  · exact .inl ⟨hcur, by simp [frameSoFar, hcur]⟩
  · exact .inr ⟨hcur, by simp [frameSoFar, hcur, bufTake, hslash]⟩

theorem Parsing.frameSoFar_of_cur_one {s : State} (h : Parsing s .seekHeader) (hcur : s.cur = 1#16) :
    frameSoFar s = [Config.slash] := by
  obtain ⟨hcur', -⟩ | ⟨-, hheld⟩ := h.seekHeader_cases
  · simp [hcur] at hcur'
  · exact hheld

/-- With no header byte held, a 0x2F is accepted (R131). -/
theorem pushIn_slash {s : State} (hcur : s.cur = 0#16) :
    pushIn Config.slash s .seekHeader = accept Config.slash s := by
  rw [pushIn, seekHeader, if_pos hcur, seekFirst_slash hcur]

/-- With no header byte held, any other byte is dropped (R131). -/
theorem pushIn_dropped {b : Byte} {s : State} (hcur : s.cur = 0#16) (hb : b ≠ Config.slash) :
    pushIn b s .seekHeader = s := by
  rw [pushIn, seekHeader, if_pos hcur, seekFirst, if_neg hb]

/-- After a 0x2F, a 0x2A completes the header (R132). -/
theorem pushIn_star {s : State} (hcur : s.cur = 1#16) :
    pushIn Config.star s .seekHeader = setParser .readLength (accept Config.star s) := by
  rw [pushIn, seekHeader, if_neg (by simp [hcur]), seekSecond_star hcur]

/-- After a 0x2F, any other byte is taken from the state after the diagnostic (R133). -/
theorem pushIn_mismatch {b : Byte} {s : State} (hcur : s.cur = 1#16) (hb : b ≠ Config.star) :
    pushIn b s .seekHeader = pushIn b (diagnose .headerNotFoundYet (declaredDl s) s) .seekHeader := by
  rw [pushIn, seekHeader, if_neg (by simp [hcur]), seekSecond, if_neg hb, pushIn, seekHeader,
    if_pos (diagnose_cur ..)]

theorem Parsing.parsing_slash {s : State} (h : Parsing s .seekHeader) (hcur : s.cur = 0#16) :
    Parsing (accept Config.slash s) .seekHeader := by
  obtain ⟨hdl, -⟩ := rowHolds_seekHeader.mp h.row
  rw [← setParser_accept_self h.state]
  exact h.accept_setParser _
    (rowHolds_seekHeader.mpr ⟨hdl, .inr ⟨by simp [hcur], by simp [bufRead_accept, hcur]⟩⟩)

theorem Parsing.parsing_star {s : State} (h : Parsing s .seekHeader) (hcur : s.cur = 1#16) :
    Parsing (setParser .readLength (accept Config.star s)) .readLength := by
  obtain ⟨hdl, hcur' | ⟨-, hslash⟩⟩ := rowHolds_seekHeader.mp h.row
  · simp [hcur] at hcur'
  · exact h.accept_setParser _ (rowHolds_readLength.mpr ⟨hdl, .inl (by simp [hcur]),
      headerHeld_iff.mpr ⟨by simp [bufRead_accept, hcur, hslash], by simp [bufRead_accept, hcur]⟩⟩)

/-- The diagnostic of a mismatching second header byte: the context holds the 0x2F (R133). -/
theorem Parsing.header_mismatch_recovers {s : State} (h : Parsing s .seekHeader) (hcur : s.cur = 1#16) :
    RecoveredTo s (respondOk (diagnose .headerNotFoundYet (declaredDl s) s))
      (ifAttached s.errAtt headerNotFoundEvent ++ [okResponse]) := by
  obtain ⟨hdl, -⟩ := rowHolds_seekHeader.mp h.row
  have hctx : contextOf (declaredDl s) s = ⟨0#3, 1#16, 0#17, [Config.slash]⟩ := by
    rw [contextOf_eq _ h.cur_lt_cap.le, h.frameSoFar_of_cur_one hcur, h.state, hcur, declaredDl, hdl]
    rfl
  have hrec := diagnose_recovers .headerNotFoundYet (declaredDl s) s
  rwa [hctx] at hrec

/-- An empty SeekHeader stays in SeekHeader, silently, and holds the byte if it is a 0x2F (R131). -/
theorem Parsing.pushIn_empty {s : State} (h : Parsing s .seekHeader) (hcur : s.cur = 0#16) (b : Byte) :
    Parsing (pushIn b s .seekHeader) .seekHeader ∧ (pushIn b s .seekHeader).outputs = s.outputs ∧
      frameSoFar (pushIn b s .seekHeader) = if b = Config.slash then [Config.slash] else [] := by
  have hheld : frameSoFar s = [] := by simp [frameSoFar, hcur]
  by_cases hb : b = Config.slash
  · subst hb
    rw [pushIn_slash hcur]
    exact ⟨h.parsing_slash hcur, rfl, by simp [frameSoFar_accept _ h.cur_lt, hheld]⟩
  · rw [pushIn_dropped hcur hb]
    exact ⟨h, rfl, by simp [hheld, hb]⟩

/-! ## Runs of PUSHes -/

/-- Pushing the bytes from s answers t and puts out outs. -/
structure PushRun (bytes : List Byte) (s t : State) (outs : List Output) : Prop where
  run : pushAll bytes s = .next t
  outputs : t.outputs = s.outputs ++ outs

theorem pushRun_nil (s : State) : PushRun [] s s [] := ⟨rfl, (List.append_nil _).symm⟩

/-- One PUSH. -/
theorem pushRun_single {b : Byte} {s t : State} {outs : List Output} (h : exec (.push b) s = .next t)
    (hout : t.outputs = s.outputs ++ outs) : PushRun [b] s t outs :=
  ⟨pushAll_cons_next [] h, hout⟩

/-- One run after the other. -/
theorem PushRun.append {as bs : List Byte} {s t u : State} {outs outs' : List Output} (h : PushRun as s t outs)
    (h' : PushRun bs t u outs') : PushRun (as ++ bs) s u (outs ++ outs') :=
  ⟨(pushAll_append bs h.run).trans h'.run, by rw [h'.outputs, h.outputs, List.append_assoc]⟩

theorem SameOutsideParser.trans {s t u : State} (h : SameOutsideParser s t) (h' : SameOutsideParser t u) :
    SameOutsideParser s u := by
  obtain ⟨ho, hcap, hh, hpkt, herr, hm, hin⟩ := h
  obtain ⟨ho', hcap', hh', hpkt', herr', hm', hin'⟩ := h'
  exact ⟨ho'.trans ho, hcap'.trans hcap, hh'.trans hh, hpkt'.trans hpkt, herr'.trans herr, hm'.trans hm,
    hin'.trans hin⟩

/-- A run of PUSHes changes nothing outside the parser. -/
theorem pushAll_sameOutsideParser {bytes : List Byte} {s t : State} (h : pushAll bytes s = .next t) :
    SameOutsideParser s t := by
  induction bytes generalizing s with
  | nil => cases h; exact ⟨rfl, rfl, rfl, rfl, rfl, rfl, rfl⟩
  | cons b bytes ih =>
    cases he : exec (.push b) s with
    | next u => exact (execPush_sameOutsideParser he).trans (ih (pushAll_cons_next bytes he ▸ h))
    | fault r => cases r
    | refused r => simp [pushAll, he] at h

theorem PushRun.sameOutsideParser {bytes : List Byte} {s t : State} {outs : List Output} (h : PushRun bytes s t outs) :
    SameOutsideParser s t :=
  pushAll_sameOutsideParser h.run

/-- The events among what a run puts out, as the statements write them. -/
theorem PushRun.events {bytes : List Byte} {s t : State} {outs : List Output} (h : PushRun bytes s t outs) :
    (t.outputs.drop s.outputs.length).filter Output.isEvent = outs.filter Output.isEvent := by
  rw [h.outputs, List.drop_left]

/-- A PUSH that accepts its byte and moves to parser state q. -/
theorem Parsing.push_accept {s : State} {p q : ParserState} {b : Byte} (h : Parsing s p)
    (hpush : pushIn b s p = setParser q (accept b s)) (hq : Parsing (setParser q (accept b s)) q) :
    ∃ t, PushRun [b] s t [okResponse] ∧ Parsing t q ∧ frameSoFar t = frameSoFar s ++ [b] ∧ t.dl = s.dl := by
  have hexec := h.exec_push b
  rw [hpush] at hexec
  exact ⟨_, pushRun_single hexec rfl, parsing_respondOk.mpr hq, frameSoFar_accept b h.cur_lt, rfl⟩

/-! ## SeekHeader, a run of bytes without a header -/

/-- The diagnostics of n stray header bytes, if the error sink is attached. -/
def strayEvents (attached : Bool) (n : Nat) : List Output :=
  if attached then List.replicate n headerNotFoundEvent else []

@[simp] theorem strayEvents_zero (attached : Bool) : strayEvents attached 0 = [] := by cases attached <;> rfl

theorem strayEvents_one (attached : Bool) : strayEvents attached 1 = ifAttached attached headerNotFoundEvent := rfl

theorem strayEvents_add (attached : Bool) (m n : Nat) :
    strayEvents attached (m + n) = strayEvents attached m ++ strayEvents attached n := by
  cases attached
  · rfl
  · exact List.replicate_add ..

@[simp] theorem filter_strayEvents (attached : Bool) (n : Nat) :
    (strayEvents attached n).filter Output.isEvent = strayEvents attached n := by
  cases attached
  · rfl
  · exact List.filter_replicate_of_pos rfl

theorem filter_ifAttached (attached : Bool) {e : Output} (he : e.isEvent = true) :
    (ifAttached attached e).filter Output.isEvent = ifAttached attached e := by
  cases attached
  · rfl
  · simp [ifAttached, he]

@[simp] theorem okResponse_isEvent : okResponse.isEvent = false := rfl

/-- SeekHeader takes a byte that completes no header: a 0x2F it holds is a stray one, and the byte is looked at as a
first header byte (R131, R133). -/
theorem Parsing.push_search {s : State} (h : Parsing s .seekHeader) {b : Byte} (hb : s.cur = 1#16 → b ≠ Config.star) :
    ∃ t, PushRun [b] s t (strayEvents s.errAtt s.cur.toNat ++ [okResponse]) ∧ Parsing t .seekHeader ∧
      frameSoFar t = if b = Config.slash then [Config.slash] else [] := by
  obtain ⟨hcur, -⟩ | ⟨hcur, -⟩ := h.seekHeader_cases
  · obtain ⟨hp, hout, hheld⟩ := h.pushIn_empty hcur b
    refine ⟨_, pushRun_single (h.exec_push b) ?_, parsing_respondOk.mpr hp, hheld⟩
    simp [hout, hcur, okResponse]
  · have hrec := h.header_mismatch_recovers hcur
    have hr : Parsing (diagnose .headerNotFoundYet (declaredDl s) s) .seekHeader :=
      parsing_respondOk.mp (h.of_recovered hrec)
    obtain ⟨hp, hout, hheld⟩ := hr.pushIn_empty rfl b
    rw [← pushIn_mismatch hcur (hb hcur)] at hp hout hheld
    refine ⟨_, pushRun_single (h.exec_push b) ?_, parsing_respondOk.mpr hp, hheld⟩
    simpa [hout, hcur, strayEvents_one] using hrec.2.2

/-- A run of bytes 0x2F after a first one: each makes the one before it a stray one. -/
theorem Parsing.push_slashes {s : State} (h : Parsing s .seekHeader) (hcur : s.cur = 1#16) (n : Nat) :
    ∃ t outs, PushRun (List.replicate n Config.slash) s t outs ∧ Parsing t .seekHeader ∧ t.cur = 1#16 ∧
      outs.filter Output.isEvent = strayEvents s.errAtt n := by
  induction n generalizing s with
  | zero => exact ⟨s, [], pushRun_nil s, h, hcur, by simp⟩
  | succ n ih =>
    obtain ⟨u, hrun, hu, hheld⟩ := h.push_search (b := Config.slash) (fun _ => by decide)
    have hcur' : u.cur = 1#16 := by rw [cur_eq_length, hheld]; rfl
    obtain ⟨t, outs, hrun', ht, hcurt, hev⟩ := ih hu hcur'
    obtain ⟨-, -, -, -, herr, -⟩ := hrun.sameOutsideParser
    refine ⟨t, _, hrun.append hrun', ht, hcurt, ?_⟩
    rw [herr] at hev
    simp [hev, hcur, Nat.add_comm n 1, strayEvents_add]

/-- Settles O21: from CUR = 0 a 0x2F is accepted and any other byte dropped. -/
theorem pushFirstHeaderByte : Obligations.PushFirstHeaderByte := by
  unfold Obligations.PushFirstHeaderByte
  intro b s ho hc hst hcur
  have h : Parsing s .seekHeader := parsing_of_consistent ho hc hst
  refine ⟨?_, fun hb => ?_, (rowHolds_seekHeader.mp h.row).1⟩
  · rintro rfl
    rw [h.exec_push, show pushIn 0x2F#8 s .seekHeader = _ from pushIn_slash hcur]
    simp [respondOk, respond, accept, bufWrite, okResponse, hcur, Config.slash]
  · rw [h.exec_push, pushIn_dropped hcur hb]
    rfl

/-- Settles O22: the 0x2A is accepted, and the two bytes held are those of the row of ReadLength. -/
theorem pushCompletesTheHeader : Obligations.PushCompletesTheHeader := by
  unfold Obligations.PushCompletesTheHeader
  intro s ho hc hst hcur
  have h : Parsing s .seekHeader := parsing_of_consistent ho hc hst
  refine ⟨respondOk (setParser .readLength (accept Config.star s)), ?_, ?_, ?_⟩
  · rw [← pushIn_star hcur]
    exact h.exec_push _
  · simp [respondOk, respond, setParser, accept, bufWrite, okResponse, hcur, Config.star, ParserState.code]
  · obtain ⟨-, -, hheader⟩ := rowHolds_readLength.mp (parsing_respondOk.mpr (h.parsing_star hcur)).row
    obtain ⟨h0, h1⟩ := headerHeld_iff.mp hheader
    rw [bufTake_succ, bufTake_succ, bufTake_zero, h0, h1]
    rfl


/-- Settles O23: the byte is taken from the state after the diagnostic, where an empty SeekHeader drops it or accepts
it; and a run of k bytes 0x2F is one that is held and k - 1 that each make the one before it stray. -/
theorem pushMismatchedSecondByte : Obligations.PushMismatchedSecondByte := by
  unfold Obligations.PushMismatchedSecondByte
  constructor
  · intro b s ho hc hst hcur hstar
    have h : Parsing s .seekHeader := parsing_of_consistent ho hc hst
    have hexec := h.exec_push b
    have hrec := h.header_mismatch_recovers hcur
    rw [pushIn_mismatch hcur hstar] at hexec
    constructor
    · intro hb
      rw [pushIn_dropped rfl hb] at hexec
      exact ⟨_, hexec, hrec⟩
    · rintro rfl
      rw [show pushIn 0x2F#8 _ .seekHeader = _ from pushIn_slash rfl] at hexec
      exact ⟨_, hexec, rfl, rfl, rfl, fun i => Memory.lookup_write _ 0 i _, hrec.2⟩
  · intro k s ho hc hst hcur hk
    obtain ⟨n, rfl⟩ := Nat.exists_eq_add_of_le' hk
    have h : Parsing s .seekHeader := parsing_of_consistent ho hc hst
    obtain ⟨u, hfirst, hu, hheld⟩ := h.push_search (b := Config.slash) (fun _ => by decide)
    have hcuru : u.cur = 1#16 := by rw [cur_eq_length, hheld]; rfl
    obtain ⟨t, outs, hrun, ht, hcurt, hev⟩ := hu.push_slashes hcuru n
    have hstar := ht.exec_push Config.star
    rw [pushIn_star hcurt] at hstar
    have hall := (hfirst.append hrun).append (pushRun_single (outs := [okResponse]) hstar rfl)
    refine ⟨_, hall.run, rfl, by simp [hcurt], ?_⟩
    obtain ⟨-, -, -, -, herr, -⟩ := hfirst.sameOutsideParser
    rw [herr] at hev
    rw [hall.events]
    show _ = strayEvents s.errAtt n
    simp [hev, hcur]

end Sys2Proof.Machine
end

section
/-! SUPPORT. PUSH in ReadLength (O24, O25), inside a frame (O26 to O28, O36), and at the end of one (O29 to O31). -/

namespace Sys2Proof.Machine

/-! ## ReadLength -/

theorem le16_toNat (b0 b1 : Byte) : (le16 b0 b1).toNat = b0.toNat + 256 * b1.toNat := by
  have h0 := b0.isLt
  have h1 := b1.isLt
  have hcat : le16 b0 b1 = b1 ++ b0 := BitVec.eq_of_getLsbD_eq fun i _ => by
    rw [getLsbD_le16, BitVec.getLsbD_append]
  rw [hcat, BitVec.toNat_append, Nat.shiftLeft_eq, Nat.mul_comm, ← Nat.two_pow_add_eq_or_of_lt h0]
  omega

theorem declared_toNat_bytes (b2 b3 : Byte) : (Frame.declared b2 b3).toNat = 13 + (b2.toNat + 256 * b3.toNat) := by
  rw [Frame.declared_toNat, le16_toNat]

/-- The first length byte is only accepted (R135). -/
theorem pushIn_firstLength {s : State} (hst : s.state = 1#3) (hcur : s.cur = 2#16) (b : Byte) :
    pushIn b s .readLength = setParser .readLength (accept b s) := by
  rw [setParser_accept_self (p := .readLength) hst, pushIn, readLength, if_neg (by simp [hcur])]

theorem Parsing.parsing_firstLength {s : State} (h : Parsing s .readLength) (hcur : s.cur = 2#16) (b : Byte) :
    Parsing (setParser .readLength (accept b s)) .readLength := by
  obtain ⟨hdl, -, hheader⟩ := rowHolds_readLength.mp h.row
  exact h.accept_setParser b (rowHolds_readLength.mpr
    ⟨hdl, .inr (by simp [hcur]), (headerHeld_accept b (by simp [hcur])).trans hheader⟩)

/-- The declared length, once its second byte is accepted. -/
theorem declaredLength_accept {s : State} (hcur : s.cur = 3#16) (b : Byte) :
    declaredLength (accept b s) = Frame.declared (bufRead s 2) b := by
  simp [declaredLength, bufRead_accept, hcur]

/-- A declared length up to CAP is accepted as DL (R136). -/
theorem pushIn_lengthAccepted {s : State} {b : Byte} (hcur : s.cur = 3#16)
    (hle : (Frame.declared (bufRead s 2) b).toNat ≤ s.cap.toNat) :
    pushIn b s .readLength =
      setParser .readType { accept b s with dl := (Frame.declared (bufRead s 2) b).setWidth 16 } := by
  have h13 := Frame.declared_toNat (bufRead s 2) b
  rw [pushIn, readLength, if_pos (by simp [hcur]), declaredLength_accept hcur, if_neg (by rw [accept_cap]; omega)]

/-- A longer one is rejected (R136). -/
theorem pushIn_lengthRejected {s : State} {b : Byte} (hcur : s.cur = 3#16)
    (hlt : s.cap.toNat < (Frame.declared (bufRead s 2) b).toNat) :
    pushIn b s .readLength = diagnose .invalidPacket (Frame.declared (bufRead s 2) b) (accept b s) := by
  rw [pushIn, readLength, if_pos (by simp [hcur]), declaredLength_accept hcur, if_pos (.inr hlt)]

theorem Parsing.parsing_lengthAccepted {s : State} {b : Byte} (h : Parsing s .readLength) (hcur : s.cur = 3#16)
    (hle : (Frame.declared (bufRead s 2) b).toNat ≤ s.cap.toNat) :
    Parsing (setParser .readType { accept b s with dl := (Frame.declared (bufRead s 2) b).setWidth 16 }) .readType := by
  obtain ⟨-, -, hheader⟩ := rowHolds_readLength.mp h.row
  have h13 := Frame.declared_toNat (bufRead s 2) b
  have hheld := lengthHeld_of_declaredLength (s := accept b s)
    ((headerHeld_accept b (by simp [hcur])).trans hheader)
    (by rw [declaredLength_accept hcur]; omega) (by rw [declaredLength_accept hcur]; exact hle)
  rw [declaredLength_accept hcur] at hheld
  exact h.of_accept b ⟨rfl, rfl, rfl, rfl, rfl, rfl, rfl⟩ rfl rfl rfl
    (rowHolds_readType.mpr ⟨.inl (by simp [hcur]), hheld⟩)

/-- An accepted byte and its response, field by field. -/
theorem respondOk_accept (b : Byte) (s : State) :
    respondOk (accept b s) = { s with
      buf := Memory.write s.buf s.cur.toNat b, cur := s.cur + 1#16, outputs := s.outputs ++ [okResponse] } := rfl

/-- An accepted byte, a move to parser state q and the response, field by field. -/
theorem respondOk_setParser_accept (q : ParserState) (b : Byte) (s : State) :
    respondOk (setParser q (accept b s)) = { s with
      buf := Memory.write s.buf s.cur.toNat b, cur := s.cur + 1#16, state := q.code,
      outputs := s.outputs ++ [okResponse] } := rfl

/-- Settles O24: the byte is accepted and the check at CUR = 4 does not fire. -/
theorem pushFirstLengthByte : Obligations.PushFirstLengthByte := by
  unfold Obligations.PushFirstLengthByte
  intro b s ho hc hst hcur
  have h : Parsing s .readLength := parsing_of_consistent ho hc hst
  rw [h.exec_push, pushIn_firstLength hst hcur, setParser_accept_self h.state, respondOk_accept, hcur]
  rfl

/-- Settles O25: L is the declared length of R136, which the check compares with CAP in 17 bits. A 16-bit sum wraps only
to a value below 13, which is rejected as the longer length is. -/
theorem pushSecondLengthByte : Obligations.PushSecondLengthByte := by
  unfold Obligations.PushSecondLengthByte
  refine ⟨fun b s L ho hc hst hcur hL => ?_, fun n cap hn hcap => by omega⟩
  have h : Parsing s .readLength := parsing_of_consistent ho hc hst
  have hdeclared : (Frame.declared (bufRead s 2) b).toNat = L := (declared_toNat_bytes _ _).trans hL.symm
  constructor
  · intro hle
    have hdl : (Frame.declared (bufRead s 2) b).setWidth 16 = BitVec.ofNat 16 L := by
      rw [← hdeclared, BitVec.ofNat_toNat]
    rw [h.exec_push, pushIn_lengthAccepted hcur (hdeclared ▸ hle), hdl]
    simp [respondOk, respond, setParser, accept, bufWrite, okResponse, hcur, ParserState.code]
  · intro hlt
    have hd : Frame.declared (bufRead s 2) b = BitVec.ofNat 17 L := by
      rw [← hdeclared, BitVec.ofNat_toNat, BitVec.setWidth_eq]
    have hexec := h.exec_push b
    rw [pushIn_lengthRejected hcur (hdeclared ▸ hlt)] at hexec
    have hrec := h.reject_accept b .invalidPacket (Frame.declared (bufRead s 2) b)
    rw [hd, hst, frameSoFar, hcur] at hrec
    exact ⟨_, hexec, hd ▸ hrec⟩

/-! ## Inside a frame

From the first type byte to the third checksum byte PUSH stores its byte and does nothing else but move STATE, which CUR
and DL alone decide. -/

/-- The parser state in which the byte at the cursor belongs to the type, the body or the checksum field (R70). -/
def insidePhase (cur dl : Nat) : ParserState :=
  if cur < 7 then .readType else if cur + 6 < dl then .readBody else .readChecksum

theorem insidePhase_readType {cur dl : Nat} (h : cur < 7) : insidePhase cur dl = .readType := if_pos h

theorem insidePhase_readBody {cur dl : Nat} (h7 : 7 ≤ cur) (h : cur + 6 < dl) : insidePhase cur dl = .readBody := by
  rw [insidePhase, if_neg (by omega), if_pos h]

theorem insidePhase_readChecksum {cur dl : Nat} (h7 : 7 ≤ cur) (h : dl ≤ cur + 6) :
    insidePhase cur dl = .readChecksum := by
  rw [insidePhase, if_neg (by omega), if_neg (by omega)]

/-- An open block that meets R31 inside a frame: in the parser state of its CUR and DL. -/
abbrev Inside (s : State) : Prop := Parsing s (insidePhase s.cur.toNat s.dl.toNat)

/-- The rows of ReadType, ReadBody and ReadChecksum in one. -/
theorem rowHolds_insidePhase {s : State} :
    rowHolds s (insidePhase s.cur.toNat s.dl.toNat) = true ↔
      4 ≤ s.cur.toNat ∧ s.cur.toNat + 2 < s.dl.toNat ∧ lengthHeld s = true := by
  by_cases h7 : s.cur.toNat < 7
  · have hcases : s.cur = 4#16 ∨ s.cur = 5#16 ∨ s.cur = 6#16 ↔ 4 ≤ s.cur.toNat := by
      simp only [← BitVec.toNat_inj, BitVec.toNat_ofNat]
      omega
    rw [insidePhase_readType h7, rowHolds_readType, hcases]
    refine and_congr_right fun _ => ⟨fun hlen => ⟨?_, hlen⟩, And.right⟩
    have := (dl_bounds_of_lengthHeld hlen).1
    omega
  · by_cases hbody : s.cur.toNat + 6 < s.dl.toNat
    · rw [insidePhase_readBody (by omega) hbody, rowHolds_readBody]
      exact ⟨fun ⟨_, _, hlen⟩ => ⟨by omega, by omega, hlen⟩, fun ⟨_, _, hlen⟩ => ⟨by omega, hbody, hlen⟩⟩
    · rw [insidePhase_readChecksum (by omega) (by omega), rowHolds_readChecksum]
      exact ⟨fun ⟨_, hcur, hlen⟩ => ⟨by omega, hcur, hlen⟩, fun ⟨_, hcur, hlen⟩ => ⟨by omega, hcur, hlen⟩⟩

/-- In each of the three states the block is inside a frame. -/
theorem Parsing.eq_insidePhase {s : State} {p : ParserState} (h : Parsing s p)
    (hp : p = .readType ∨ p = .readBody ∨ p = .readChecksum) : p = insidePhase s.cur.toNat s.dl.toNat := by
  rcases hp with rfl | rfl | rfl
  · obtain ⟨hcur, -⟩ := rowHolds_readType.mp h.row
    exact (insidePhase_readType (by rcases hcur with hcur | hcur | hcur <;> simp [hcur])).symm
  · obtain ⟨h7, hcur, -⟩ := rowHolds_readBody.mp h.row
    exact (insidePhase_readBody h7 hcur).symm
  · obtain ⟨h6, -, hlen⟩ := rowHolds_readChecksum.mp h.row
    have := (dl_bounds_of_lengthHeld hlen).1
    exact (insidePhase_readChecksum (by omega) h6).symm

theorem Parsing.inside {s : State} {p : ParserState} (h : Parsing s p)
    (hp : p = .readType ∨ p = .readBody ∨ p = .readChecksum) : Inside s := by
  rw [Inside, ← h.eq_insidePhase hp]
  exact h

/-- Before the fourth checksum byte a byte is accepted, and STATE is that of the next cursor (R137 to R139). -/
theorem Inside.pushIn_eq {s : State} (h : Inside s) (b : Byte) (hcur : s.cur.toNat + 3 < s.dl.toNat) :
    pushIn b s (insidePhase s.cur.toNat s.dl.toNat) =
      setParser (insidePhase (s.cur.toNat + 1) s.dl.toNat) (accept b s) := by
  have hnext := accept_cur_toNat b h.cur_lt
  have hst := h.state
  obtain ⟨-, -, hlen⟩ := rowHolds_insidePhase.mp h.row
  have h13 := (dl_bounds_of_lengthHeld hlen).1
  by_cases h7 : s.cur.toNat < 7
  · rw [insidePhase_readType h7] at hst ⊢
    by_cases h6 : s.cur.toNat = 6
    · have hcur7 : (accept b s).cur = 7#16 := BitVec.eq_of_toNat_eq (by rw [hnext, h6]; rfl)
      rw [pushIn, readType, if_pos hcur7, accept_dl]
      split
      · rename_i hdl
        rw [insidePhase_readChecksum (by omega) (by simp [hdl, h6])]
      · rename_i hdl
        have hdl' : s.dl.toNat ≠ 13 := fun he => hdl (BitVec.eq_of_toNat_eq he)
        rw [insidePhase_readBody (by omega) (by omega)]
    · have hcur7 : (accept b s).cur ≠ 7#16 := fun he => by
        have := congrArg BitVec.toNat he
        rw [hnext] at this
        simp at this
        omega
      rw [pushIn, readType, if_neg hcur7, insidePhase_readType (by omega), setParser_accept_self hst]
  · by_cases hbody : s.cur.toNat + 6 < s.dl.toNat
    · rw [insidePhase_readBody (by omega) hbody] at hst ⊢
      rw [pushIn, readBody, hnext, accept_dl]
      split
      · rw [insidePhase_readChecksum (by omega) (by omega)]
      · rw [insidePhase_readBody (by omega) (by omega), setParser_accept_self hst]
    · rw [insidePhase_readChecksum (by omega) (by omega)] at hst ⊢
      rw [pushIn, readChecksum, hnext, accept_dl, if_neg (by omega), insidePhase_readChecksum (by omega) (by omega),
        setParser_accept_self hst]

/-- The block stays inside the frame. -/
theorem Inside.next {s : State} (h : Inside s) (b : Byte) (hcur : s.cur.toNat + 3 < s.dl.toNat) :
    Parsing (setParser (insidePhase (s.cur.toNat + 1) s.dl.toNat) (accept b s))
      (insidePhase (s.cur.toNat + 1) s.dl.toNat) := by
  obtain ⟨h4, -, hlen⟩ := rowHolds_insidePhase.mp h.row
  have hnext := accept_cur_toNat b h.cur_lt
  have hlen' : lengthHeld (accept b s) = true := (lengthHeld_accept b h4).trans hlen
  rw [← hnext]
  exact h.accept_setParser b (rowHolds_insidePhase.mpr ⟨by omega, by rw [hnext, accept_dl]; omega, hlen'⟩)

theorem Inside.exec_push {s : State} (h : Inside s) (b : Byte) (hcur : s.cur.toNat + 3 < s.dl.toNat) :
    exec (.push b) s = .next (respondOk (setParser (insidePhase (s.cur.toNat + 1) s.dl.toNat) (accept b s))) := by
  rw [Parsing.exec_push h, h.pushIn_eq b hcur]

/-- A byte after which the parser stays in state p. -/
theorem Inside.exec_push_same {s : State} {p : ParserState} (h : Inside s) (b : Byte)
    (hcur : s.cur.toNat + 3 < s.dl.toNat) (hp : s.state = p.code)
    (hnext : insidePhase (s.cur.toNat + 1) s.dl.toNat = p) :
    exec (.push b) s = .next { s with
      buf := Memory.write s.buf s.cur.toNat b, cur := s.cur + 1#16, outputs := s.outputs ++ [okResponse] } := by
  rw [h.exec_push b hcur, hnext, setParser_accept_self hp, respondOk_accept]

/-- A byte that moves the parser to state p. -/
theorem Inside.exec_push_move {s : State} {p : ParserState} (h : Inside s) (b : Byte)
    (hcur : s.cur.toNat + 3 < s.dl.toNat) (hnext : insidePhase (s.cur.toNat + 1) s.dl.toNat = p) :
    exec (.push b) s = .next { s with
      buf := Memory.write s.buf s.cur.toNat b, cur := s.cur + 1#16, state := p.code,
      outputs := s.outputs ++ [okResponse] } := by
  rw [h.exec_push b hcur, hnext, respondOk_setParser_accept]

/-- Inside a frame any bytes up to the third checksum byte are stored, and nothing is put out but their responses. -/
theorem Inside.pushRun {s : State} (h : Inside s) (bytes : List Byte)
    (hle : s.cur.toNat + bytes.length + 3 ≤ s.dl.toNat) :
    ∃ t, PushRun bytes s t (List.replicate bytes.length okResponse) ∧ Inside t ∧
      frameSoFar t = frameSoFar s ++ bytes ∧ t.dl = s.dl := by
  induction bytes generalizing s with
  | nil => exact ⟨s, pushRun_nil s, h, by simp, rfl⟩
  | cons b bytes ih =>
    rw [List.length_cons] at hle
    obtain ⟨u, hfirst, hu, hheldu, hdlu⟩ := h.push_accept (h.pushIn_eq b (by omega)) (h.next b (by omega))
    have hcuru : u.cur.toNat = s.cur.toNat + 1 := by
      rw [← frameSoFar_length, hheldu, List.length_append, frameSoFar_length, List.length_singleton]
    obtain ⟨t, hrun, ht, hheld, hdl⟩ := ih (s := u) (by rw [Inside, hcuru, hdlu]; exact hu) (by rw [hcuru, hdlu]; omega)
    refine ⟨t, hfirst.append hrun, ht, ?_, hdl.trans hdlu⟩
    rw [hheld, hheldu, List.append_assoc, List.singleton_append]

/-- Settles O26: the third type byte is the one whose next cursor leaves ReadType. -/
theorem pushTypeByte : Obligations.PushTypeByte := by
  unfold Obligations.PushTypeByte
  intro b s ho hc hst
  have h : Parsing s .readType := parsing_of_consistent ho hc hst
  have hin : Inside s := h.inside (.inl rfl)
  have h13 := (dl_bounds_of_lengthHeld (rowHolds_readType.mp h.row).2).1
  refine ⟨fun hcur => ?_, fun hcur hdl => ?_, fun hcur hdl => ?_⟩
  · have hcur' : s.cur.toNat < 6 := by rcases hcur with hcur | hcur <;> simp [hcur]
    exact hin.exec_push_same b (by omega) h.state (insidePhase_readType (by omega))
  · rw [hin.exec_push_move b (p := .readChecksum) (by simp [hcur, hdl]) (by simp [hcur, hdl, insidePhase]), hcur]
    rfl
  · have hdl' : s.dl.toNat ≠ 13 := fun he => hdl (BitVec.eq_of_toNat_eq he)
    have hcur' : s.cur.toNat = 6 := by rw [hcur]; rfl
    rw [hin.exec_push_move b (p := .readBody) (by omega) (insidePhase_readBody (by omega) (by omega)), hcur]
    rfl

/-- Settles O27: the last body byte is the one whose next cursor leaves ReadBody, and a run of body bytes ends in the
state of its last cursor. -/
theorem pushBodyByte : Obligations.PushBodyByte := by
  unfold Obligations.PushBodyByte
  constructor
  · intro b s ho hc hst
    have h : Parsing s .readBody := parsing_of_consistent ho hc hst
    have hin : Inside s := h.inside (.inr (.inl rfl))
    obtain ⟨h7, hbody, -⟩ := rowHolds_readBody.mp h.row
    exact ⟨fun hlt => hin.exec_push_same b (by omega) h.state (insidePhase_readBody (by omega) (by omega)),
      fun heq => hin.exec_push_move b (p := .readChecksum) (by omega)
        (insidePhase_readChecksum (by omega) (by omega))⟩
  · intro bytes s ho hc hst hcur
    have h : Parsing s .readBody := parsing_of_consistent ho hc hst
    have hin : Inside s := h.inside (.inr (.inl rfl))
    obtain ⟨h7, hbody, -⟩ := rowHolds_readBody.mp h.row
    have hcur7 : s.cur.toNat = 7 := by rw [hcur]; rfl
    have hrun (hle : bytes.length + 13 ≤ s.dl.toNat) : ∃ t, pushAll bytes s = .next t ∧
        t.state = (insidePhase (7 + bytes.length) s.dl.toNat).code ∧ t.cur.toNat = 7 + bytes.length := by
      obtain ⟨t, hrun, ht, hheld, hdl⟩ := hin.pushRun bytes (by omega)
      have hcurt : t.cur.toNat = 7 + bytes.length := by
        rw [← frameSoFar_length, hheld, List.length_append, frameSoFar_length, hcur7]
      exact ⟨t, hrun.run, by rw [ht.state, hcurt, hdl], hcurt⟩
    refine ⟨by omega, fun hlt => ?_, fun heq => ?_⟩
    · obtain ⟨t, ht, hstt, -⟩ := hrun (by omega)
      exact ⟨t, ht, by rw [hstt, insidePhase_readBody (by omega) (by omega)]; rfl⟩
    · obtain ⟨t, ht, hstt, hcurt⟩ := hrun (by omega)
      exact ⟨t, ht, by rw [hstt, insidePhase_readChecksum (by omega) (by omega)]; rfl, by omega⟩

/-- Settles O28: before the fourth checksum byte the parser stays in ReadChecksum. -/
theorem pushEarlierChecksumByte : Obligations.PushEarlierChecksumByte := by
  unfold Obligations.PushEarlierChecksumByte
  intro b s ho hc hst hcur
  have h : Parsing s .readChecksum := parsing_of_consistent ho hc hst
  obtain ⟨h6, -, hlen⟩ := rowHolds_readChecksum.mp h.row
  have h13 := (dl_bounds_of_lengthHeld hlen).1
  exact (h.inside (.inr (.inr rfl))).exec_push_same b hcur h.state
    (insidePhase_readChecksum (by omega) (by omega))

/-- A PUSH stores its byte, whatever it is, and moves on inside the frame. -/
abbrev StoresEveryByte (s : State) : Prop :=
  ∃ q : ParserState, q ≠ .seekHeader ∧ ∀ b, exec (.push b) s = .next (respondOk (setParser q (accept b s)))

theorem Inside.storesEveryByte {s : State} (h : Inside s) (hcur : s.cur.toNat + 3 < s.dl.toNat) :
    StoresEveryByte s :=
  ⟨_, by unfold insidePhase; split_ifs <;> decide, fun b => h.exec_push b hcur⟩

/-- Where no byte is examined, the parser state after a PUSH is the same for every byte (R147). -/
theorem storesEveryByte_of_unexamined {s : State} (ho : s.opened = true) (hc : consistent s = true)
    (h : (s.state = 1#3 ∧ s.cur = 2#16) ∨ s.state = 2#3 ∨ s.state = 3#3 ∨
      (s.state = 4#3 ∧ s.cur.toNat + 3 < s.dl.toNat)) : StoresEveryByte s := by
  rcases h with ⟨hst, hcur⟩ | hst | hst | ⟨hst, hcur⟩
  · have hs : Parsing s .readLength := parsing_of_consistent ho hc hst
    exact ⟨.readLength, by decide, fun b => by rw [hs.exec_push, pushIn_firstLength hst hcur]⟩
  · have hs : Parsing s .readType := parsing_of_consistent ho hc hst
    obtain ⟨hcur, hlen⟩ := rowHolds_readType.mp hs.row
    have h13 := (dl_bounds_of_lengthHeld hlen).1
    have hcur6 : s.cur.toNat ≤ 6 := by rcases hcur with hcur | hcur | hcur <;> simp [hcur]
    exact (hs.inside (.inl rfl)).storesEveryByte (by omega)
  · have hs : Parsing s .readBody := parsing_of_consistent ho hc hst
    obtain ⟨-, hcur, -⟩ := rowHolds_readBody.mp hs.row
    exact (hs.inside (.inr (.inl rfl))).storesEveryByte (by omega)
  · have hs : Parsing s .readChecksum := parsing_of_consistent ho hc hst
    exact (hs.inside (.inr (.inr rfl))).storesEveryByte hcur

/-- Settles O36: the two next states are accepts of the two bytes, with the same move of STATE. -/
theorem noByteIsExaminedInsideAFrame : Obligations.NoByteIsExaminedInsideAFrame := by
  unfold Obligations.NoByteIsExaminedInsideAFrame
  intro b c s ho hc h
  obtain ⟨q, hq, hexec⟩ := storesEveryByte_of_unexamined ho hc h
  refine ⟨_, _, hexec b, hexec c, rfl, rfl, rfl, ⟨rfl, rfl, rfl, rfl, rfl, rfl, rfl⟩, rfl, rfl, ?_, fun i hi => ?_⟩
  · cases q <;> simp_all [ParserState.code]
  · exact (Memory.lookup_write_other _ b hi).trans (Memory.lookup_write_other _ c hi).symm

end Sys2Proof.Machine
end

section
/-! SUPPORT. PUSH at the end of a frame (O29 to O31) and in an invalid state (O32), and what holds of every PUSH
(O37). -/

namespace Sys2Proof.Machine

/-! ## The fourth checksum byte -/

/-- The checksum field that b completes is the checksum of the frame so far and the trailer literal (R139, R140). -/
abbrev ChecksumMatches (b : Byte) (s : State) : Prop :=
  le32 (bufRead s (s.dl.toNat - 6)) (bufRead s (s.dl.toNat - 5)) (bufRead s (s.dl.toNat - 4)) b =
    crc32 (bufTake s (s.dl.toNat - 6) ++ Config.trailer)

theorem checksumDomain_accept {s : State} (b : Byte) (hcur : s.cur.toNat + 3 = s.dl.toNat) :
    checksumDomain (accept b s) = bufTake s (s.dl.toNat - 6) ++ Config.trailer := by
  rw [checksumDomain, accept_dl, bufTake_accept b (by omega)]

/-- The comparison that the check makes after accept. -/
theorem Parsing.checksumMatches_iff {s : State} (h : Parsing s .readChecksum) (b : Byte)
    (hcur : s.cur.toNat + 3 = s.dl.toNat) :
    receivedChecksum (accept b s) = crc32 (checksumDomain (accept b s)) ↔ ChecksumMatches b s := by
  obtain ⟨-, -, hlen⟩ := rowHolds_readChecksum.mp h.row
  have h13 := (dl_bounds_of_lengthHeld hlen).1
  have hlast : bufRead (accept b s) (s.dl.toNat - 3) = b := by rw [bufRead_accept, if_pos (by omega)]
  rw [checksumDomain_accept b hcur, receivedChecksum, accept_dl, hlast,
    bufRead_accept_below b (show s.dl.toNat - 6 < _ by omega),
    bufRead_accept_below b (show s.dl.toNat - 5 < _ by omega),
    bufRead_accept_below b (show s.dl.toNat - 4 < _ by omega)]

/-- A matching checksum leads to the trailer (R140). -/
theorem Parsing.pushIn_checksumMatched {s : State} {b : Byte} (h : Parsing s .readChecksum)
    (hcur : s.cur.toNat + 3 = s.dl.toNat) (hsum : ChecksumMatches b s) :
    pushIn b s .readChecksum = setParser .seekTrailer (runFcrc (accept b s)) := by
  have hnext := accept_cur_toNat b h.cur_lt
  have hreceived : receivedChecksum (runFcrc (accept b s)) = crcFinalize (runFcrc (accept b s)).fcrc :=
    (h.checksumMatches_iff b hcur).mpr hsum
  rw [pushIn, readChecksum, if_pos (by rw [hnext, accept_dl]; omega), checkChecksum, if_pos hreceived]

/-- A mismatch is rejected (R140). -/
theorem Parsing.pushIn_checksumMismatched {s : State} {b : Byte} (h : Parsing s .readChecksum)
    (hcur : s.cur.toNat + 3 = s.dl.toNat) (hsum : ¬ ChecksumMatches b s) :
    pushIn b s .readChecksum = diagnose .invalidPacket (declaredDl s) (runFcrc (accept b s)) := by
  have hnext := accept_cur_toNat b h.cur_lt
  have hreceived : receivedChecksum (runFcrc (accept b s)) ≠ crcFinalize (runFcrc (accept b s)).fcrc :=
    mt (h.checksumMatches_iff b hcur).mp hsum
  rw [pushIn, readChecksum, if_pos (by rw [hnext, accept_dl]; omega), checkChecksum, if_neg hreceived]
  rfl

theorem Parsing.parsing_checksumMatched {s : State} {b : Byte} (h : Parsing s .readChecksum)
    (hcur : s.cur.toNat + 3 = s.dl.toNat) (hsum : ChecksumMatches b s) :
    Parsing (setParser .seekTrailer (runFcrc (accept b s))) .seekTrailer := by
  obtain ⟨-, -, hlen⟩ := rowHolds_readChecksum.mp h.row
  have h13 := (dl_bounds_of_lengthHeld hlen).1
  have hnext := accept_cur_toNat b h.cur_lt
  have hrow : rowHolds (accept b s) .seekTrailer = true := rowHolds_seekTrailer.mpr
    ⟨.inl (by rw [hnext, accept_dl]; omega), (lengthHeld_accept b (by omega)).trans hlen,
      (h.checksumMatches_iff b hcur).mpr hsum⟩
  exact h.of_accept b ⟨rfl, rfl, rfl, rfl, rfl, rfl, rfl⟩ rfl rfl rfl hrow

/-- A rejection at the fourth checksum byte (R140, R195). -/
theorem Parsing.checksumMismatched_recovers {s : State} {b : Byte} (h : Parsing s .readChecksum)
    (hcur : s.cur.toNat + 3 = s.dl.toNat) (hsum : ¬ ChecksumMatches b s) :
    RecoveredTo s (respondOk (pushIn b s .readChecksum))
      (ifAttached s.errAtt (.error ⟨.invalidPacket, ⟨4#3, s.dl - 2#16, s.dl.setWidth 17, frameSoFar s ++ [b]⟩⟩) ++
        [okResponse]) := by
  have hcursor : s.cur + 1#16 = s.dl - 2#16 := by bv_omega
  have hrec := h.reject_accept b .invalidPacket (declaredDl s)
  rw [hcursor, h.state] at hrec
  rw [h.pushIn_checksumMismatched hcur hsum]
  exact hrec

/-- Settles O29: the check after accept is the comparison of the statement; either way FCRC holds the register. -/
theorem pushLastChecksumByte : Obligations.PushLastChecksumByte := by
  unfold Obligations.PushLastChecksumByte
  refine ⟨fun b s ho hc hst hcur => ?_, by decide +kernel, by decide, by decide⟩
  have h : Parsing s .readChecksum := parsing_of_consistent ho hc hst
  constructor
  · intro hsum
    have hdomain : checksumDomain (accept b s) = bufTake s (s.dl.toNat - 6) ++ [0x2A#8, 0x2F#8] :=
      checksumDomain_accept b hcur
    rw [h.exec_push, h.pushIn_checksumMatched hcur hsum, ← hdomain]
    rfl
  · intro hsum
    have hbytes : frameSoFar s = bufTake s (s.dl.toNat - 3) := by rw [frameSoFar]; congr 1; omega
    exact ⟨_, h.exec_push b, hbytes ▸ h.checksumMismatched_recovers hcur hsum⟩

/-! ## The trailer -/

theorem Parsing.pushIn_firstTrailer {s : State} (h : Parsing s .seekTrailer) (b : Byte)
    (hcur : s.cur.toNat + 2 = s.dl.toNat) :
    pushIn b s .seekTrailer =
      if b = Config.star then accept b s else diagnose .invalidPacket (declaredDl s) (accept b s) := by
  have hnext := accept_cur_toNat b h.cur_lt
  rw [pushIn, seekTrailer, if_pos (by rw [hnext, accept_dl]; omega)]
  rfl

theorem Parsing.pushIn_secondTrailer {s : State} (h : Parsing s .seekTrailer) (b : Byte)
    (hcur : s.cur.toNat + 1 = s.dl.toNat) :
    pushIn b s .seekTrailer =
      if b = Config.slash then abort (deliver s.dl (accept b s))
      else diagnose .invalidPacket (declaredDl s) (accept b s) := by
  have hnext := accept_cur_toNat b h.cur_lt
  rw [pushIn, seekTrailer, if_neg (by rw [hnext, accept_dl]; omega)]
  rfl

theorem Parsing.parsing_firstTrailer {s : State} (h : Parsing s .seekTrailer)
    (hcur : s.cur.toNat + 2 = s.dl.toNat) : Parsing (accept Config.star s) .seekTrailer := by
  obtain ⟨-, hlen, hsum⟩ := rowHolds_seekTrailer.mp h.row
  have h13 := (dl_bounds_of_lengthHeld hlen).1
  have hnext := accept_cur_toNat Config.star h.cur_lt
  obtain ⟨hrec, hdom⟩ := checksum_accept (s := s) Config.star (by omega) (by omega)
  have hstar : bufRead (accept Config.star s) (s.dl.toNat - 2) = Config.star := by
    rw [bufRead_accept, if_pos (by omega)]
  rw [← setParser_accept_self h.state]
  exact h.accept_setParser _ (rowHolds_seekTrailer.mpr
    ⟨.inr ⟨by rw [hnext, accept_dl]; omega, hstar⟩, (lengthHeld_accept _ (by omega)).trans hlen,
      by rw [hrec, hdom, hsum]⟩)

/-- The delivery of the frame with its last byte (R142, R197). -/
theorem deliver_accept_recovers {s : State} (b : Byte) (hcur : s.cur.toNat + 1 = s.dl.toNat) :
    RecoveredTo s (respondOk (abort (deliver s.dl (accept b s))))
      (ifAttached s.pktAtt (.packet ⟨s.dl, frameSoFar s ++ [b]⟩) ++ [okResponse]) := by
  have hrec := deliver_recovers s.dl (accept b s)
  rw [← hcur, bufTake_accept_succ] at hrec
  exact hrec.of_accept

/-- Settles O30: at the first trailer byte the cursor is DL - 1 after the accept. -/
theorem pushFirstTrailerByte : Obligations.PushFirstTrailerByte := by
  unfold Obligations.PushFirstTrailerByte
  intro b s ho hc hst hcur
  have h : Parsing s .seekTrailer := parsing_of_consistent ho hc hst
  have hexec := h.exec_push b
  rw [h.pushIn_firstTrailer b hcur] at hexec
  constructor
  · intro (hb : b = Config.star)
    rw [hexec, if_pos hb, respondOk_accept]
  · intro (hb : b ≠ Config.star)
    rw [if_neg hb] at hexec
    have hrec := h.reject_accept b .invalidPacket (declaredDl s)
    have hcursor : s.cur + 1#16 = s.dl - 1#16 := by bv_omega
    have hbytes : frameSoFar s = bufTake s (s.dl.toNat - 2) := by rw [frameSoFar, ← hcur, Nat.add_sub_cancel]
    rw [hcursor, hst, hbytes] at hrec
    exact ⟨_, hexec, hrec⟩

/-- Settles O31: at the second trailer byte the cursor is DL after the accept, and the frame ends in every case. -/
theorem pushSecondTrailerByte : Obligations.PushSecondTrailerByte := by
  unfold Obligations.PushSecondTrailerByte
  intro b s ho hc hst hcur
  have h : Parsing s .seekTrailer := parsing_of_consistent ho hc hst
  have hexec := h.exec_push b
  have hbytes : frameSoFar s = bufTake s (s.dl.toNat - 1) := by rw [frameSoFar, ← hcur, Nat.add_sub_cancel]
  rw [h.pushIn_secondTrailer b hcur] at hexec
  constructor
  · intro (hb : b = Config.slash)
    rw [if_pos hb] at hexec
    exact ⟨_, hexec, hbytes ▸ deliver_accept_recovers b hcur⟩
  · intro (hb : b ≠ Config.slash)
    rw [if_neg hb] at hexec
    have hrec := h.reject_accept b .invalidPacket (declaredDl s)
    have hcursor : s.cur + 1#16 = s.dl := by bv_omega
    rw [hcursor, hst, hbytes] at hrec
    exact ⟨_, hexec, hrec⟩

/-! ## STATE = 6 or 7 -/

theorem exec_push_invalidState {s : State} (b : Byte) (ho : s.opened = true) (hst : s.state = 6#3 ∨ s.state = 7#3) :
    exec (.push b) s = .next (respondOk (internalError s)) :=
  (ExecAnswer.pushInvalidState b ho (ofCode_eq_none.mpr hst)).exec_eq

/-- Settles O32: PUSH diagnoses the state as it stands, and R31 names a parser state or, on a closed block, code 0. -/
theorem pushInAnInvalidState : Obligations.PushInAnInvalidState := by
  unfold Obligations.PushInAnInvalidState
  refine ⟨fun b s ho hst => ⟨_, exec_push_invalidState b ho hst, diagnose_recovers _ _ s⟩, fun s hi => ?_⟩
  obtain ⟨-, -, -, hc⟩ := hi
  cases ho : s.opened with
  | true =>
    obtain ⟨p, hp⟩ := exists_parsing ho hc
    rw [hp.state]
    cases p <;> decide
  | false =>
    rw [consistent_closed ho] at hc
    simp only [closedConsistent, Bool.and_eq_true, beq_iff_eq] at hc
    simp [hc]

/-! ## Every PUSH leaves a state that takes the next byte -/

theorem Parsing.parsing_pushIn_seekHeader {s : State} (h : Parsing s .seekHeader) (b : Byte) :
    ∃ q, Parsing (pushIn b s .seekHeader) q := by
  obtain ⟨hcur, -⟩ | ⟨hcur, -⟩ := h.seekHeader_cases
  · exact ⟨_, (h.pushIn_empty hcur b).1⟩
  · by_cases hb : b = Config.star
    · subst hb
      exact ⟨_, pushIn_star hcur ▸ h.parsing_star hcur⟩
    · have hr := parsing_respondOk.mp (h.of_recovered (h.header_mismatch_recovers hcur))
      exact ⟨_, pushIn_mismatch hcur hb ▸ (hr.pushIn_empty rfl b).1⟩

theorem Parsing.parsing_pushIn_readLength {s : State} (h : Parsing s .readLength) (b : Byte) :
    ∃ q, Parsing (pushIn b s .readLength) q := by
  obtain ⟨-, hcur | hcur, -⟩ := rowHolds_readLength.mp h.row
  · exact ⟨_, pushIn_firstLength h.state hcur b ▸ h.parsing_firstLength hcur b⟩
  · by_cases hle : (Frame.declared (bufRead s 2) b).toNat ≤ s.cap.toNat
    · exact ⟨_, pushIn_lengthAccepted hcur hle ▸ h.parsing_lengthAccepted hcur hle⟩
    · rw [pushIn_lengthRejected hcur (by omega)]
      exact ⟨_, parsing_respondOk.mp (h.of_recovered (h.reject_accept b _ _))⟩

theorem Inside.parsing_pushIn {s : State} (h : Inside s) (b : Byte) :
    ∃ q, Parsing (pushIn b s (insidePhase s.cur.toNat s.dl.toNat)) q := by
  obtain ⟨h4, hlt, hlen⟩ := rowHolds_insidePhase.mp h.row
  have h13 := (dl_bounds_of_lengthHeld hlen).1
  by_cases hcur : s.cur.toNat + 3 < s.dl.toNat
  · exact ⟨_, h.pushIn_eq b hcur ▸ h.next b hcur⟩
  · have hphase := insidePhase_readChecksum (cur := s.cur.toNat) (dl := s.dl.toNat) (by omega) (by omega)
    have hs : Parsing s .readChecksum := hphase ▸ h
    rw [hphase]
    by_cases hsum : ChecksumMatches b s
    · exact ⟨_, hs.pushIn_checksumMatched (by omega) hsum ▸ hs.parsing_checksumMatched (by omega) hsum⟩
    · exact ⟨_, parsing_respondOk.mp (h.of_recovered (hs.checksumMismatched_recovers (by omega) hsum))⟩

theorem Parsing.parsing_pushIn_seekTrailer {s : State} (h : Parsing s .seekTrailer) (b : Byte) :
    ∃ q, Parsing (pushIn b s .seekTrailer) q := by
  have hreject := parsing_respondOk.mp (h.of_recovered (h.reject_accept b .invalidPacket (declaredDl s)))
  obtain ⟨hcur | ⟨hcur, -⟩, -, -⟩ := rowHolds_seekTrailer.mp h.row
  · rw [h.pushIn_firstTrailer b hcur]
    split
    · rename_i hb
      exact ⟨_, hb ▸ h.parsing_firstTrailer hcur⟩
    · exact ⟨_, hreject⟩
  · rw [h.pushIn_secondTrailer b hcur]
    split
    · exact ⟨_, parsing_respondOk.mp (h.of_recovered (deliver_accept_recovers b hcur))⟩
    · exact ⟨_, hreject⟩

/-- After its PUSH the block meets R31 again, in some parser state. -/
theorem Parsing.parsing_pushIn {s : State} {p : ParserState} (h : Parsing s p) (b : Byte) :
    ∃ q, Parsing (pushIn b s p) q := by
  have hinside (hp : p = .readType ∨ p = .readBody ∨ p = .readChecksum) : ∃ q, Parsing (pushIn b s p) q := by
    rw [h.eq_insidePhase hp]
    exact (h.inside hp).parsing_pushIn b
  cases p with
  | seekHeader => exact h.parsing_pushIn_seekHeader b
  | readLength => exact h.parsing_pushIn_readLength b
  | readType => exact hinside (.inl rfl)
  | readBody => exact hinside (.inr (.inl rfl))
  | readChecksum => exact hinside (.inr (.inr rfl))
  | seekTrailer => exact h.parsing_pushIn_seekTrailer b

theorem respondOk_getLast? (s : State) : (respondOk s).outputs.getLast? = some okResponse :=
  List.getLast?_concat

/-- Settles O37: each case of PUSH keeps R31 on an open block; with STATE = 6 or 7 the parser recovers. -/
theorem pushOnAnOpenBlockNeverStalls : Obligations.PushOnAnOpenBlockNeverStalls := by
  unfold Obligations.PushOnAnOpenBlockNeverStalls
  refine fun b s ho => ⟨fun hc => ?_, fun hst => ?_⟩
  · obtain ⟨p, h⟩ := exists_parsing ho hc
    obtain ⟨q, hq⟩ := h.parsing_pushIn b
    exact ⟨_, h.exec_push b, hq.opened, (parsing_respondOk.mpr hq).consistent, respondOk_getLast? _⟩
  · refine ⟨_, exec_push_invalidState b ho hst, ho, rfl, respondOk_getLast? _, fun ⟨hge, hle⟩ => ?_⟩
    exact (parsing_of_emptyParser (s := internalError s) ho hge hle (emptyParser_diagnose _ _ s)).consistent

end Sys2Proof.Machine
end

section
/-! SUPPORT. What a command puts out before its response (O34, O45), and that a step from the invariant always answers
(O50). -/

namespace Sys2Proof.Machine

/-! ## The event of a PUSH -/

/-- t has ended the frame with event e: an empty SeekHeader, or one that holds a re-examined 0x2F (R133, R144). -/
abbrev EndedWith (e : Output) (t : State) : Prop :=
  t.state = 0#3 ∧ t.dl = 0#16 ∧ (t.cur = 0#16 ∨ t.cur = 1#16 ∧ ∃ ctx, e = .error ⟨.headerNotFoundYet, ctx⟩)

/-- From s to t nothing was put out, or one event, if its sink is attached, that ended the frame. -/
def QuietOrEnded (s t : State) : Prop :=
  t.outputs = s.outputs ∨
    ∃ attached e, e.isEvent = true ∧ t.outputs = s.outputs ++ ifAttached attached e ∧ EndedWith e t

theorem quietOrEnded_diagnose (k : ErrorKind) (d : BitVec 17) (s : State) : QuietOrEnded s (diagnose k d s) :=
  .inr ⟨s.errAtt, _, rfl, rfl, rfl, rfl, .inl rfl⟩

theorem quietOrEnded_deliver (n : Half) (s : State) : QuietOrEnded s (abort (deliver n s)) :=
  .inr ⟨s.pktAtt, _, rfl, rfl, rfl, rfl, .inl rfl⟩

/-- A first header byte is taken or dropped silently, also when it is re-examined after a diagnostic. -/
theorem quietOrEnded_seekHeader (b : Byte) (s : State) : QuietOrEnded s (seekHeader b s) := by
  have hquiet (t : State) : (seekFirst b t).outputs = t.outputs := by
    unfold seekFirst; split <;> rfl
  unfold seekHeader seekSecond
  split
  · exact .inl (hquiet s)
  · split
    · exact .inl rfl
    · refine .inr ⟨s.errAtt, _, rfl, hquiet _, ?_⟩
      unfold seekFirst
      split
      · exact ⟨rfl, rfl, .inr ⟨rfl, _, rfl⟩⟩
      · exact ⟨rfl, rfl, .inl rfl⟩

theorem quietOrEnded_readLength (s : State) : QuietOrEnded s (readLength s) := by
  unfold readLength
  split
  · split
    · exact quietOrEnded_diagnose _ _ s
    · exact .inl rfl
  · exact .inl rfl

theorem quietOrEnded_readType (s : State) : QuietOrEnded s (readType s) := by
  unfold readType
  split
  · split <;> exact .inl rfl
  · exact .inl rfl

theorem quietOrEnded_readBody (s : State) : QuietOrEnded s (readBody s) := by
  unfold readBody
  split <;> exact .inl rfl

theorem quietOrEnded_readChecksum (s : State) : QuietOrEnded s (readChecksum s) := by
  unfold readChecksum checkChecksum
  split
  · split
    · exact .inl rfl
    · exact quietOrEnded_diagnose _ _ (runFcrc s)
  · exact .inl rfl

theorem quietOrEnded_seekTrailer (b : Byte) (s : State) : QuietOrEnded s (seekTrailer b s) := by
  unfold seekTrailer
  split
  · split
    · exact .inl rfl
    · exact quietOrEnded_diagnose _ _ s
  · split
    · exact quietOrEnded_deliver _ s
    · exact quietOrEnded_diagnose _ _ s

theorem quietOrEnded_pushIn (b : Byte) (s : State) (p : ParserState) : QuietOrEnded s (pushIn b s p) := by
  cases p with
  | seekHeader => exact quietOrEnded_seekHeader b s
  | readLength => exact quietOrEnded_readLength (accept b s)
  | readType => exact quietOrEnded_readType (accept b s)
  | readBody => exact quietOrEnded_readBody (accept b s)
  | readChecksum => exact quietOrEnded_readChecksum (accept b s)
  | seekTrailer => exact quietOrEnded_seekTrailer b (accept b s)

/-- What a command puts out: one response; or, by a PUSH on an open block, an event that ends the frame and OK. -/
theorem ExecAnswer.outputs_cases {i : Instr} {s t : State} (h : ExecAnswer s i t) :
    (∃ r, t.outputs = s.outputs ++ [.response r]) ∨
    ∃ b u, i = .push b ∧ s.opened = true ∧ QuietOrEnded s u ∧ t = respondOk u := by
  cases h with
  | pushInvalidState b ho => exact .inr ⟨b, _, rfl, ho, quietOrEnded_diagnose _ _ s, rfl⟩
  | push b p ho => exact .inr ⟨b, _, rfl, ho, quietOrEnded_pushIn b s p, rfl⟩
  | _ => exact .inl ⟨_, rfl⟩

/-- Settles O34: two outputs are an event and its response, so the PUSH has ended the frame with that event. -/
theorem everyEventEndsTheFrame : Obligations.EveryEventEndsTheFrame := by
  unfold Obligations.EveryEventEndsTheFrame
  intro i s t e h he hout
  rcases (execAnswer_of_next h).outputs_cases with ⟨r, hr⟩ | ⟨b, u, -, -, hquiet | ⟨attached, e', -, hev, hended⟩, rfl⟩
  · simp [hr] at hout
  · simp [hquiet] at hout
  · have hsame : e' = e := by
      cases attached <;> simp [hev, ifAttached, okResponse] at hout
      exact hout
    exact hsame ▸ hended

/-- The same as a list of at most one event and one response (R148). -/
theorem ExecAnswer.events {i : Instr} {s t : State} (h : ExecAnswer s i t) :
    ∃ (events : List Output) (r : Response), t.outputs = s.outputs ++ events ++ [.response r] ∧
      events.length ≤ 1 ∧ (∀ e ∈ events, e.isEvent = true) ∧
      (events ≠ [] → ∃ b, i = .push b ∧ s.opened = true) := by
  rcases h.outputs_cases with ⟨r, hr⟩ | ⟨b, u, rfl, ho, hquiet | ⟨attached, e, he, hev, -⟩, rfl⟩
  · exact ⟨[], r, by rw [hr, List.append_nil], by simp, by simp, by simp⟩
  · exact ⟨[], _, by rw [respondOk_outputs, hquiet, List.append_nil], by simp, by simp, by simp⟩
  · refine ⟨ifAttached attached e, _, by rw [respondOk_outputs, hev], ?_, ?_, fun _ => ⟨b, rfl, ho⟩⟩
    · cases attached <;> simp [ifAttached]
    · cases attached <;> simp [ifAttached, he]

/-- Settles O45: a legal word puts out what its command does, and an illegal one INVALID_ARG alone. -/
theorem atMostOneEventPerCommand : Obligations.AtMostOneEventPerCommand := by
  unfold Obligations.AtMostOneEventPerCommand
  intro s t w rest hin h
  have hrun : runWord w (withInputs rest s) = .next t := by
    cases hl : launchable s with
    | true => exact (step_command hl hin).symm.trans h
    | false => simp [step, hin, fromLaunchState, hl] at h
  rcases decode_cases w with ⟨i, hi⟩ | ⟨e, he⟩
  · rw [runWord_ok _ hi] at hrun
    obtain ⟨events, r, hout, hone, hevents, hcause⟩ := (execAnswer_of_next hrun).events
    refine ⟨events, r, hout, hone, hevents, fun hne => ?_⟩
    obtain ⟨b, rfl, ho⟩ := hcause hne
    exact ⟨b, hi, ho⟩
  · rw [runWord_error _ he] at hrun
    cases hrun
    exact ⟨[], _, by rw [List.append_nil]; rfl, by simp, by simp, by simp⟩

/-- Settles O50: there is no fault, and a step is refused only in a state that breaks R31 (O57). -/
theorem invariantStatesAlwaysStep : Obligations.InvariantStatesAlwaysStep := by
  unfold Obligations.InvariantStatesAlwaysStep
  intro s hi
  obtain ⟨-, -, -, hc⟩ := hi
  cases h : step s with
  | next t => exact ⟨t, rfl⟩
  | fault r => cases r
  | refused r =>
    obtain ⟨-, -, hbroken, -⟩ := inconsistentLaunchStatesAreRefused.2 s r h
    simp [hc] at hbroken

end Sys2Proof.Machine
end

section
/-! SUPPORT. Streams of bytes: a valid frame (O51), noise before one (O52), a changed byte (O53) and a frame over the
capacity (O54). -/

namespace Sys2Proof.Machine

/-! ## A frame from its header to its checksum field -/

/-- The header and the first length byte. A 0x2F held before them is a stray one. -/
theorem Parsing.push_toLength {s : State} (h : Parsing s .seekHeader) (b2 : Byte) :
    ∃ t, PushRun [Config.slash, Config.star, b2] s t
        (strayEvents s.errAtt s.cur.toNat ++ List.replicate 3 okResponse) ∧
      Parsing t .readLength ∧ frameSoFar t = [Config.slash, Config.star, b2] := by
  obtain ⟨u, hslash, hu, hheldu⟩ := h.push_search (b := Config.slash) (fun _ => by decide)
  have hcuru : u.cur = 1#16 := by rw [cur_eq_length, hheldu]; rfl
  obtain ⟨v, hstar, hv, hheldv, -⟩ := hu.push_accept (pushIn_star hcuru) (hu.parsing_star hcuru)
  have hcurv : v.cur = 2#16 := by rw [cur_eq_length, hheldv, hheldu]; rfl
  obtain ⟨t, hlen, ht, hheld, -⟩ :=
    hv.push_accept (pushIn_firstLength hv.state hcurv b2) (hv.parsing_firstLength hcurv b2)
  refine ⟨t, ?_, ht, by rw [hheld, hheldv, hheldu]; rfl⟩
  simpa using hslash.append (hstar.append hlen)

/-- The header and an accepted length field. -/
theorem Parsing.push_toType {s : State} (h : Parsing s .seekHeader) {b2 b3 : Byte}
    (hcap : (Frame.declared b2 b3).toNat ≤ s.cap.toNat) :
    ∃ t, PushRun [Config.slash, Config.star, b2, b3] s t
        (strayEvents s.errAtt s.cur.toNat ++ List.replicate 4 okResponse) ∧
      Inside t ∧ frameSoFar t = [Config.slash, Config.star, b2, b3] ∧ t.dl.toNat = (Frame.declared b2 b3).toNat := by
  obtain ⟨u, hrun, hu, hheld⟩ := h.push_toLength b2
  have hcur : u.cur = 3#16 := by rw [cur_eq_length, hheld]; rfl
  have hb2 : bufRead u 2 = b2 := by rw [bufRead_eq_getD (by simp [hcur]), hheld]; rfl
  obtain ⟨-, hcapu, -⟩ := hrun.sameOutsideParser
  have hle : (Frame.declared (bufRead u 2) b3).toNat ≤ u.cap.toNat := by rw [hb2, hcapu]; exact hcap
  have hexec := hu.exec_push b3
  have ht := hu.parsing_lengthAccepted hcur hle
  rw [pushIn_lengthAccepted hcur hle] at hexec
  refine ⟨_, ?_, (parsing_respondOk.mpr ht).inside (.inl rfl), ?_, ?_⟩
  · simpa using hrun.append (pushRun_single (outs := [okResponse]) hexec rfl)
  · exact (frameSoFar_accept b3 hu.cur_lt).trans (by rw [hheld]; rfl)
  · have := s.cap.isLt
    simp only [hb2, respondOk_dl, setParser_dl, BitVec.toNat_setWidth]
    omega

/-- The string begins with the header and a length field that gives its length (R70 to R72). -/
structure DeclaresItsLength (f : List Byte) : Prop where
  header : f.take 2 = Config.header
  length : f.length = (Frame.declared (f.getD 2 0#8) (f.getD 3 0#8)).toNat

theorem DeclaresItsLength.length_ge {f : List Byte} (h : DeclaresItsLength f) : 13 ≤ f.length := by
  have := Frame.declared_toNat (f.getD 2 0#8) (f.getD 3 0#8)
  have := h.length
  omega

theorem DeclaresItsLength.take_four {f : List Byte} (h : DeclaresItsLength f) :
    f.take 4 = [Config.slash, Config.star, f.getD 2 0#8, f.getD 3 0#8] := by
  have hlen := h.length_ge
  have hhead := h.header
  match f with
  | [] | [_] | [_, _] | [_, _, _] => simp at hlen
  | a :: b :: c :: d :: rest =>
    obtain ⟨rfl, rfl⟩ : a = Config.slash ∧ b = Config.star := by simpa [Config.header] using hhead
    rfl

/-- Such a string within the capacity, up to its third checksum byte. -/
theorem Parsing.push_toLastChecksum {s : State} (h : Parsing s .seekHeader) {f : List Byte} (hf : DeclaresItsLength f)
    (hcap : f.length ≤ s.cap.toNat) :
    ∃ t, PushRun (f.take (f.length - 3)) s t
        (strayEvents s.errAtt s.cur.toNat ++ List.replicate (f.length - 3) okResponse) ∧
      Parsing t .readChecksum ∧ frameSoFar t = f.take (f.length - 3) ∧ t.dl.toNat = f.length := by
  have h13 := hf.length_ge
  have hsplit : f.take (f.length - 3) =
      [Config.slash, Config.star, f.getD 2 0#8, f.getD 3 0#8] ++ (f.drop 4).take (f.length - 7) := by
    rw [← hf.take_four, ← List.take_add]
    congr 1
    omega
  obtain ⟨u, hrun, hu, hheldu, hdlu⟩ := h.push_toType (hf.length ▸ hcap)
  rw [← hf.length] at hdlu
  have hcuru : u.cur.toNat = 4 := by rw [← frameSoFar_length, hheldu]; rfl
  have hrest : ((f.drop 4).take (f.length - 7)).length = f.length - 7 := by simp; omega
  obtain ⟨t, hrun', ht, hheld, hdl⟩ := hu.pushRun ((f.drop 4).take (f.length - 7)) (by omega)
  have hcurt : t.cur.toNat = f.length - 3 := by
    rw [← frameSoFar_length, hheld, List.length_append, frameSoFar_length, hrest]; omega
  rw [← hdl] at hdlu
  rw [Inside, insidePhase_readChecksum (by omega) (by omega)] at ht
  refine ⟨t, ?_, ht, by rw [hheld, hheldu, hsplit], hdlu⟩
  have hcount : f.length - 3 = 4 + (f.length - 7) := by omega
  have hall := hrun.append hrun'
  rw [hrest, List.append_assoc, ← List.replicate_add, ← hcount, ← hsplit] at hall
  exact hall

/-! ## The checksum of the string pushed -/

/-- The string's checksum field holds the checksum of what comes before it and the trailer literal (R75). -/
abbrev ChecksumHolds (f : List Byte) : Prop :=
  le32 (f.getD (f.length - 6) 0#8) (f.getD (f.length - 5) 0#8) (f.getD (f.length - 4) 0#8)
    (f.getD (f.length - 3) 0#8) = Frame.checksum (f.take (f.length - 6))

theorem take_succ_getD {f : List Byte} {n : Nat} (h : n < f.length) : f.take (n + 1) = f.take n ++ [f.getD n 0#8] := by
  rw [List.take_add_one, List.getElem?_eq_getElem h, List.getD_eq_getElem _ _ h]
  rfl

/-- With the string held up to its third checksum byte, the comparison at the fourth is the string's own. -/
theorem checksumMatches_iff_checksumHolds {f : List Byte} {t : State} (h13 : 13 ≤ f.length)
    (hheld : frameSoFar t = f.take (f.length - 3)) (hdl : t.dl.toNat = f.length) :
    ChecksumMatches (f.getD (f.length - 3) 0#8) t ↔ ChecksumHolds f := by
  have hcur : t.cur.toNat = f.length - 3 := by rw [← frameSoFar_length, hheld, List.length_take]; omega
  have hread {i : Nat} (hi : i < f.length - 3) : bufRead t i = f.getD i 0#8 := by
    rw [bufRead_eq_getD (by omega), hheld, List.getD, List.getElem?_take_of_lt hi, List.getD]
  have htake : bufTake t (f.length - 6) = f.take (f.length - 6) := by
    rw [bufTake_eq_take (by omega), hheld, List.take_take, Nat.min_eq_left (by omega)]
  rw [ChecksumMatches, hdl, hread (by omega), hread (by omega), hread (by omega), htake]
  rfl

/-! ## A valid frame -/

/-- The parts of R78. -/
theorem parts_of_valid {cap : Half} {f : List Byte} (h : Frame.valid cap f = true) :
    DeclaresItsLength f ∧ f.length ≤ cap.toNat ∧ ChecksumHolds f ∧ f.drop (f.length - 2) = Config.trailer := by
  simp only [Frame.valid, Bool.and_eq_true, Nat.ble_eq, beq_iff_eq] at h
  obtain ⟨⟨⟨⟨⟨-, hhead⟩, hlen⟩, hcap⟩, hsum⟩, htail⟩ := h
  exact ⟨⟨hhead, hlen⟩, hcap, hsum, htail⟩

theorem PushRun.recoveredTo {bytes : List Byte} {s t : State} {outs : List Output} (h : PushRun bytes s t outs)
    (ht : EmptyParser t) : RecoveredTo s t outs :=
  ⟨ht, h.sameOutsideParser, h.outputs⟩

/-- A PUSH that ends the frame. -/
theorem pushRun_of_recovered {b : Byte} {s t : State} {outs : List Output} (h : exec (.push b) s = .next t)
    (ht : RecoveredTo s t outs) : PushRun [b] s t outs ∧ EmptyParser t :=
  ⟨pushRun_single h ht.2.2, ht.1⟩

/-- The trailer delivers the packet (R141, R142). -/
theorem Parsing.push_trailer {s : State} (h : Parsing s .seekTrailer) (hcur : s.cur.toNat + 2 = s.dl.toNat) :
    ∃ t, PushRun Config.trailer s t
        ([okResponse] ++ (ifAttached s.pktAtt (.packet ⟨s.dl, frameSoFar s ++ Config.trailer⟩) ++ [okResponse])) ∧
      EmptyParser t := by
  have hstar : pushIn Config.star s .seekTrailer = setParser .seekTrailer (accept Config.star s) := by
    rw [h.pushIn_firstTrailer _ hcur, if_pos rfl, setParser_accept_self h.state]
  obtain ⟨u, hrun, hu, hheld, hdl⟩ := h.push_accept hstar
    (setParser_accept_self h.state _ ▸ h.parsing_firstTrailer hcur)
  have hcuru : u.cur.toNat + 1 = u.dl.toNat := by
    rw [← frameSoFar_length, hheld, List.length_append, frameSoFar_length, List.length_singleton, hdl]; omega
  have hexec := hu.exec_push Config.slash
  rw [hu.pushIn_secondTrailer _ hcuru, if_pos rfl] at hexec
  obtain ⟨hlast, ht⟩ := pushRun_of_recovered hexec (deliver_accept_recovers _ hcuru)
  obtain ⟨-, -, -, hpkt, -⟩ := hrun.sameOutsideParser
  rw [hpkt, hdl, hheld, List.append_assoc] at hlast
  exact ⟨_, hrun.append hlast, ht⟩

/-- A matching fourth checksum byte. -/
theorem Parsing.push_checksumMatched {s : State} {b : Byte} (h : Parsing s .readChecksum)
    (hcur : s.cur.toNat + 3 = s.dl.toNat) (hsum : ChecksumMatches b s) :
    ∃ t, PushRun [b] s t [okResponse] ∧ Parsing t .seekTrailer ∧ frameSoFar t = frameSoFar s ++ [b] ∧ t.dl = s.dl := by
  have hexec := h.exec_push b
  rw [h.pushIn_checksumMatched hcur hsum] at hexec
  exact ⟨_, pushRun_single hexec rfl, parsing_respondOk.mpr (h.parsing_checksumMatched hcur hsum),
    frameSoFar_accept b h.cur_lt, rfl⟩

/-- A valid frame is delivered at its last byte and nowhere else; a 0x2F held before it is a stray one (R150). -/
theorem Parsing.push_validFrame {s : State} (h : Parsing s .seekHeader) {f : List Byte}
    (hf : Frame.valid s.cap f = true) :
    ∃ t, PushRun f s t (strayEvents s.errAtt s.cur.toNat ++ List.replicate (f.length - 1) okResponse ++
        ifAttached s.pktAtt (.packet ⟨BitVec.ofNat 16 f.length, f⟩) ++ [okResponse]) ∧ EmptyParser t := by
  obtain ⟨hdeclares, hcap, hsum, htrailer⟩ := parts_of_valid hf
  have h13 := hdeclares.length_ge
  obtain ⟨u, hrun, hu, hheldu, hdlu⟩ := h.push_toLastChecksum hdeclares hcap
  have hcuru : u.cur.toNat + 3 = u.dl.toNat := by
    rw [← frameSoFar_length, hheldu, List.length_take, hdlu]; omega
  have hmatch := (checksumMatches_iff_checksumHolds h13 hheldu hdlu).mpr hsum
  obtain ⟨v, hfourth, hv, hheldv, hdlv⟩ := hu.push_checksumMatched hcuru hmatch
  rw [hheldu, ← take_succ_getD (by omega)] at hheldv
  have hcurv : v.cur.toNat + 2 = v.dl.toNat := by
    rw [← frameSoFar_length, hheldv, List.length_take, hdlv, hdlu]; omega
  obtain ⟨t, hlast, ht⟩ := hv.push_trailer hcurv
  have hwhole : f.take (f.length - 3 + 1) ++ Config.trailer = f := by
    rw [← htrailer, show f.length - 3 + 1 = f.length - 2 by omega, List.take_append_drop]
  have hdl : v.dl = BitVec.ofNat 16 f.length := by rw [← hdlu, ← hdlv, BitVec.ofNat_toNat, BitVec.setWidth_eq]
  have hall := (hrun.append hfourth).append hlast
  obtain ⟨-, -, -, hpkt, -⟩ := (hrun.append hfourth).sameOutsideParser
  rw [← take_succ_getD (by omega), hwhole, hheldv, hwhole, hdl, hpkt] at hall
  have hcount : f.length - 1 = f.length - 3 + (1 + 1) := by omega
  refine ⟨t, ?_, ht⟩
  simpa [hcount, List.replicate_add] using hall

/-- Settles O51: the run of a valid frame, with no byte or one 0x2F held before it. -/
theorem validFrameIsDeliveredExactly : Obligations.ValidFrameIsDeliveredExactly := by
  unfold Obligations.ValidFrameIsDeliveredExactly
  intro f s ho hc hst hf
  have h : Parsing s .seekHeader := parsing_of_consistent ho hc hst
  obtain ⟨t, hrun, ht⟩ := h.push_validFrame hf
  refine ⟨fun hcur => ⟨t, hrun.run, ?_⟩, fun hcur => ⟨t, hrun.run, ?_⟩⟩
  · simpa [hcur] using hrun.recoveredTo ht
  · simpa [hcur, strayEvents_one] using hrun.recoveredTo ht

/-! ## Noise before a valid frame -/

theorem noHeaderIn_tail {b : Byte} {g : List Byte} (h : noHeaderIn (b :: g) = true) : noHeaderIn g = true := by
  cases g with
  | nil => rfl
  | cons c g => exact (Bool.and_eq_true_iff.mp h).2

/-- A byte other than 0x2F is no stray header byte. -/
theorem strayCount_cons_other {b next : Byte} (g : List Byte) (hb : b ≠ Config.slash) :
    strayCount next (b :: g) = strayCount next g := by
  cases g with
  | nil => simp [strayCount, hb]
  | cons c g => simp [strayCount, hb]

/-- Noise leaves a SeekHeader. The 0x2F it may then hold is a stray one too if no 0x2A follows. -/
theorem Parsing.push_noise {s : State} (h : Parsing s .seekHeader) {g : List Byte}
    (hg : noHeaderIn (frameSoFar s ++ g) = true) :
    ∃ t n outs, PushRun g s t outs ∧ Parsing t .seekHeader ∧ outs.filter Output.isEvent = strayEvents s.errAtt n ∧
      strayCount Config.slash (frameSoFar s ++ g) = n + t.cur.toNat := by
  induction g generalizing s with
  | nil =>
    refine ⟨s, 0, [], pushRun_nil s, h, by simp, ?_⟩
    obtain ⟨hcur, hheld⟩ | ⟨hcur, hheld⟩ := h.seekHeader_cases <;> rw [hcur, hheld] <;> decide
  | cons b g ih =>
    have hstar : s.cur = 1#16 → b ≠ Config.star := by
      rintro hcur rfl
      simp [h.frameSoFar_of_cur_one hcur, noHeaderIn] at hg
    have htail : noHeaderIn (b :: g) = true := by
      obtain ⟨-, hheld⟩ | ⟨-, hheld⟩ := h.seekHeader_cases <;> rw [hheld] at hg
      · exact hg
      · exact noHeaderIn_tail hg
    have hcount : strayCount Config.slash (frameSoFar s ++ b :: g) =
        s.cur.toNat + strayCount Config.slash (b :: g) := by
      obtain ⟨hcur, hheld⟩ | ⟨hcur, hheld⟩ := h.seekHeader_cases <;> rw [hcur, hheld]
      · simp
      · simp [strayCount, hstar hcur]
    obtain ⟨u, hrun, hu, hheldu⟩ := h.push_search hstar
    have hnext : noHeaderIn (frameSoFar u ++ g) = true ∧
        strayCount Config.slash (frameSoFar u ++ g) = strayCount Config.slash (b :: g) := by
      rw [hheldu]
      split
      · rename_i hb
        exact hb ▸ ⟨htail, rfl⟩
      · rename_i hb
        exact ⟨noHeaderIn_tail htail, (strayCount_cons_other g hb).symm⟩
    obtain ⟨t, n, outs, hrun', ht, hev, hn⟩ := ih hu hnext.1
    obtain ⟨-, -, -, -, herr, -⟩ := hrun.sameOutsideParser
    rw [herr] at hev
    exact ⟨t, s.cur.toNat + n, _, hrun.append hrun', ht, by simp [hev, strayEvents_add], by omega⟩

/-- Settles O52: what the noise has not yet diagnosed is the 0x2F held at the frame's first byte. -/
theorem frameIsFoundAfterNoise : Obligations.FrameIsFoundAfterNoise := by
  unfold Obligations.FrameIsFoundAfterNoise
  intro g f s ho hc hst hcur hg hf
  have h : Parsing s .seekHeader := parsing_of_consistent ho hc hst
  have hheld : frameSoFar s = [] := by simp [frameSoFar, hcur]
  obtain ⟨u, n, outs, hnoise, hu, hev, hn⟩ := h.push_noise (g := g) (by rw [hheld]; exact hg)
  obtain ⟨-, hcap, -, hpkt, herr, -⟩ := hnoise.sameOutsideParser
  obtain ⟨t, hframe, ht⟩ := hu.push_validFrame (hcap ▸ hf)
  have hall := hnoise.append hframe
  refine ⟨t, hall.run, ht, hall.sameOutsideParser, ?_⟩
  have hcount : strayCount 0x2F#8 g = n + u.cur.toNat := by rw [← hn, hheld]; rfl
  rw [hall.events, hcount]
  show _ = strayEvents s.errAtt (n + u.cur.toNat) ++ _
  have hpacket := filter_ifAttached s.pktAtt (e := .packet ⟨BitVec.ofNat 16 f.length, f⟩) rfl
  rw [herr, hpkt]
  simp [hev, hpacket, strayEvents_add]

/-! ## A changed byte -/

/-- The checksums of two strings that differ in one byte differ (O15). -/
theorem checksum_set_ne {p : List Byte} {k : Nat} {c : Byte} (hk : k < p.length) (hc : p.getD k 0#8 ≠ c) :
    Frame.checksum p ≠ Frame.checksum (p.set k c) := by
  have hset (x : Byte) : p.set k x ++ Config.trailer = p.take k ++ x :: (p.drop (k + 1) ++ Config.trailer) := by
    rw [List.set_eq_take_append_cons_drop, if_pos hk, List.append_assoc, List.cons_append]
  have hself : p = p.set k (p.getD k 0#8) := by rw [List.getD_eq_getElem _ _ hk, List.set_getElem_self]
  conv_lhs => rw [hself]
  rw [Frame.checksum, Frame.checksum, hset, hset]
  exact oneChangedByteChangesTheCrc _ _ _ _ hc

theorem getD_set_of_ne {f : List Byte} {i k : Nat} (c : Byte) (h : k ≠ i) : (f.set k c).getD i 0#8 = f.getD i 0#8 := by
  rw [List.getD, List.getElem?_set_ne h, List.getD]

/-- A changed type or body byte leaves the length field as it was and breaks the checksum (R152). -/
theorem changedByte_breaks_checksum {f : List Byte} {k : Nat} {c : Byte} (hf : DeclaresItsLength f)
    (hsum : ChecksumHolds f) (hk4 : 4 ≤ k) (hk : k + 6 < f.length) (hc : f.getD k 0#8 ≠ c) :
    DeclaresItsLength (f.set k c) ∧ ¬ ChecksumHolds (f.set k c) := by
  constructor
  · refine ⟨?_, ?_⟩
    · rw [List.take_set_of_le (by omega)]
      exact hf.header
    · rw [List.length_set, getD_set_of_ne c (by omega), getD_set_of_ne c (by omega)]
      exact hf.length
  · intro hsum'
    rw [ChecksumHolds, List.length_set, getD_set_of_ne c (by omega), getD_set_of_ne c (by omega),
      getD_set_of_ne c (by omega), getD_set_of_ne c (by omega), hsum, List.take_set] at hsum'
    refine checksum_set_ne (by rw [List.length_take]; omega) ?_ hsum'
    rwa [List.getD, List.getElem?_take_of_lt (by omega)]

/-- A string whose checksum field does not hold is rejected at its fourth checksum byte (R140). -/
theorem Parsing.push_brokenChecksum {s : State} (h : Parsing s .seekHeader) {f : List Byte}
    (hf : DeclaresItsLength f) (hcap : f.length ≤ s.cap.toNat) (hsum : ¬ ChecksumHolds f) :
    ∃ t, PushRun (f.take (f.length - 2)) s t
        (strayEvents s.errAtt s.cur.toNat ++ List.replicate (f.length - 3) okResponse ++
          (ifAttached s.errAtt (.error ⟨.invalidPacket, ⟨4#3, BitVec.ofNat 16 (f.length - 2),
            BitVec.ofNat 17 f.length, f.take (f.length - 2)⟩⟩) ++ [okResponse])) ∧ EmptyParser t := by
  have h13 := hf.length_ge
  obtain ⟨u, hrun, hu, hheldu, hdlu⟩ := h.push_toLastChecksum hf hcap
  have hcuru : u.cur.toNat + 3 = u.dl.toNat := by
    rw [← frameSoFar_length, hheldu, List.length_take, hdlu]; omega
  have hmismatch := mt (checksumMatches_iff_checksumHolds h13 hheldu hdlu).mp hsum
  obtain ⟨hfourth, ht⟩ := pushRun_of_recovered (hu.exec_push _) (hu.checksumMismatched_recovers hcuru hmismatch)
  obtain ⟨-, -, -, -, herr, -⟩ := hrun.sameOutsideParser
  have hcursor : u.dl - 2#16 = BitVec.ofNat 16 (f.length - 2) := by rw [← hdlu]; bv_omega
  have hdl : u.dl.setWidth 17 = BitVec.ofNat 17 f.length := by rw [← hdlu, BitVec.ofNat_toNat]
  have hall := hrun.append hfourth
  rw [hheldu, ← take_succ_getD (by omega), show f.length - 3 + 1 = f.length - 2 by omega, hcursor, hdl, herr] at hall
  exact ⟨_, hall, ht⟩

/-- Settles O53: the changed string still gives its length, and its checksum field no longer holds. -/
theorem changedTypeOrBodyByteIsRejected : Obligations.ChangedTypeOrBodyByteIsRejected := by
  unfold Obligations.ChangedTypeOrBodyByteIsRejected
  intro f k c s ho hc hst hcur hf hk4 hk hne
  have h : Parsing s .seekHeader := parsing_of_consistent ho hc hst
  obtain ⟨hdeclares, hcap, hsum, -⟩ := parts_of_valid hf
  obtain ⟨hdeclares', hsum'⟩ := changedByte_breaks_checksum hdeclares hsum hk4 hk hne
  obtain ⟨t, hrun, ht⟩ := h.push_brokenChecksum hdeclares' (by rwa [List.length_set]) hsum'
  rw [List.length_set] at hrun
  exact ⟨t, hrun.run, by simpa [hcur] using hrun.recoveredTo ht⟩

/-! ## A frame over the capacity -/

/-- Settles O54: the two length bytes of the built frame declare CAP + 1, which the fourth PUSH rejects. -/
theorem frameOverCapacityIsRejectedAtItsLength : Obligations.FrameOverCapacityIsRejectedAtItsLength := by
  unfold Obligations.FrameOverCapacityIsRejectedAtItsLength
  intro t0 t1 t2 body s ho hc hst hcur hbody
  have h : Parsing s .seekHeader := parsing_of_consistent ho hc hst
  generalize hb2 : (BitVec.ofNat 16 body.length).extractLsb' 0 8 = b2
  generalize hb3 : (BitVec.ofNat 16 body.length).extractLsb' 8 8 = b3
  have hfour : (Frame.build t0 t1 t2 body).take 4 = [Config.slash, Config.star, b2, b3] := by
    rw [← hb2, ← hb3]; rfl
  have hdeclared : (Frame.declared b2 b3).toNat = s.cap.toNat + 1 := by
    have := s.cap.isLt
    rw [Frame.declared_toNat, ← hb2, ← hb3, le16_bytesOfHalf, BitVec.toNat_ofNat]
    omega
  have hd : Frame.declared b2 b3 = BitVec.ofNat 17 (s.cap.toNat + 1) := by
    rw [← hdeclared, BitVec.ofNat_toNat, BitVec.setWidth_eq]
  obtain ⟨u, hrun, hu, hheld⟩ := h.push_toLength b2
  have hcuru : u.cur = 3#16 := by rw [cur_eq_length, hheld]; rfl
  have hread : bufRead u 2 = b2 := by rw [bufRead_eq_getD (by simp [hcuru]), hheld]; rfl
  obtain ⟨-, hcap, -, -, herr, -⟩ := hrun.sameOutsideParser
  have hexec := hu.exec_push b3
  rw [pushIn_lengthRejected hcuru (by rw [hread, hcap, hdeclared]; omega), hread, hd] at hexec
  have hrec := hu.reject_accept b3 .invalidPacket (BitVec.ofNat 17 (s.cap.toNat + 1))
  rw [show u.state = 1#3 from hu.state, hcuru, hheld, herr] at hrec
  obtain ⟨hlast, ht⟩ := pushRun_of_recovered hexec hrec
  have hall := hrun.append hlast
  rw [hfour]
  exact ⟨_, hall.run, by simpa [hcur] using hall.recoveredTo ht⟩

end Sys2Proof.Machine
end

section
/-! SUPPORT. The lifecycle and sink commands, their words and their effect (O39 to O41), and that a PUSH runs alike with
any setting of the attach flags, its events reaching attached sinks alone (O42). -/

namespace Sys2Proof.Machine

/-! ## OPEN, CLOSE and the attach commands -/

/-- A command's word as its opcode in the top byte and its imm16 (R85). -/
theorem encode_eq_or (i : Instr) : encode i = i.opcode.code.setWidth 32 <<< 24 ||| i.imm16.setWidth 32 := by
  refine BitVec.eq_of_getLsbD_eq fun k hk => ?_
  simp only [encode, commandWord, BitVec.getLsbD_append, BitVec.getLsbD_or, BitVec.getLsbD_shiftLeft,
    BitVec.getLsbD_setWidth]
  grind

theorem encode_openWith (cap : Half) : encode (.openWith cap) = 0x01000000#32 ||| cap.setWidth 32 := by
  have hop : Opcode.openWith.code.setWidth 32 <<< 24 = 0x01000000#32 := by decide
  exact hop ▸ encode_eq_or (.openWith cap)

theorem capacityAccepted_iff {cap : Half} {s : State} :
    capacityAccepted cap s = true ↔ 13 ≤ cap.toNat ∧ cap.toNat ≤ s.maxCapacity := by
  simp [capacityAccepted]

theorem not_capacityAccepted_iff {cap : Half} {s : State} :
    capacityAccepted cap s = false ↔ cap.toNat < 13 ∨ s.maxCapacity < cap.toNat := by
  rw [← Bool.not_eq_true, capacityAccepted_iff, not_and_or, not_le, not_le]

/-- Settles O39: the words are the encodings, and OPEN answers by whether it accepts the capacity. -/
theorem openCreatesTheParser : Obligations.OpenCreatesTheParser := by
  unfold Obligations.OpenCreatesTheParser
  refine ⟨fun _ c => encode_openWith c ▸ decode_eq_ok_iff_eq_encode, fun cap s => ⟨fun hin => ?_, fun hout => ?_⟩⟩
  · exact ⟨_, (ExecAnswer.openWith cap (capacityAccepted_iff.mpr hin)).exec_eq, rfl, rfl, emptyParser_abort s,
      rfl, rfl, rfl, rfl, rfl, rfl⟩
  · exact (ExecAnswer.openInvalidArg cap (not_capacityAccepted_iff.mpr hout)).exec_eq

/-- Settles O40: the one word is the encoding, and CLOSE and PUSH test OPENED first. -/
theorem closeDestroysTheParser : Obligations.CloseDestroysTheParser := by
  unfold Obligations.CloseDestroysTheParser
  refine ⟨fun _ => decode_eq_ok_iff_eq_encode, fun s => ⟨fun ho => ?_, fun hclosed => ?_, fun hclosed b => ?_⟩⟩
  · exact ⟨_, (ExecAnswer.close ho).exec_eq, rfl, rfl, emptyParser_abort s, rfl, rfl, rfl, rfl, rfl, rfl⟩
  · exact (ExecAnswer.closeInvalidArg hclosed).exec_eq
  · exact (ExecAnswer.pushInvalidArg b hclosed).exec_eq

/-- Settles O41: each word is the encoding, and the command has one answer, in every state. -/
theorem attachSetsOneFlag : Obligations.AttachSetsOneFlag :=
  ⟨fun _ => decode_eq_ok_iff_eq_encode, fun _ => decode_eq_ok_iff_eq_encode, fun _ => ExecAnswer.pktAttach.exec_eq,
    fun _ => ExecAnswer.errAttach.exec_eq⟩

/-! ## PUSH with any setting of the attach flags

Nothing in a PUSH but `signal` and `deliver` reads a flag, and nothing reads the outputs. So a PUSH is followed with the
two flags and the outputs left open, and what it puts out is kept as a function of the flags. -/

/-- s with other attach flags and other outputs. -/
def withSinks (p e : Bool) (outs : List Output) (s : State) : State :=
  { s with pktAtt := p, errAtt := e, outputs := outs }

/-- Outputs, given by PKT_ATT and ERR_ATT, of which none reaches a detached sink (R196, R197). -/
structure Gated (out : Bool → Bool → List Output) : Prop where
  packet (e : Bool) (q : PacketEvent) : .packet q ∉ out false e
  error (p : Bool) (x : ErrorEvent) : .error x ∉ out p false

theorem gated_nil : Gated (fun _ _ => []) := ⟨by simp, by simp⟩

theorem gated_response (r : Response) : Gated (fun _ _ => [.response r]) := ⟨by simp, by simp⟩

theorem gated_packet (q : PacketEvent) : Gated (fun p _ => ifAttached p (.packet q)) where
  packet := by simp [ifAttached]
  error p x := by cases p <;> simp [ifAttached]

theorem gated_error (x : ErrorEvent) : Gated (fun _ e => ifAttached e (.error x)) where
  packet e q := by cases e <;> simp [ifAttached]
  error := by simp [ifAttached]

theorem Gated.append {out out' : Bool → Bool → List Output} (h : Gated out) (h' : Gated out') :
    Gated (fun p e => out p e ++ out' p e) where
  packet e q := by simp [h.packet, h'.packet]
  error p x := by simp [h.error, h'.error]

/-- With any flags and outputs f leads from s to the same state but for these: it keeps the flags and adds to the
outputs what the flags let through. -/
def SinksFree (f : State → State) (s : State) : Prop :=
  ∃ out, Gated out ∧ ∀ p e outs, f (withSinks p e outs s) = withSinks p e (outs ++ out p e) (f s)

/-- A function that puts nothing out. -/
theorem sinksFree_of_silent {f : State → State} {s : State}
    (h : ∀ p e outs, f (withSinks p e outs s) = withSinks p e outs (f s)) : SinksFree f s :=
  ⟨_, gated_nil, fun p e outs => by rw [h, List.append_nil]⟩

theorem SinksFree.comp {f g : State → State} {s : State} (hg : SinksFree g (f s)) (hf : SinksFree f s) :
    SinksFree (fun s => g (f s)) s := by
  obtain ⟨out, ho, hf⟩ := hf
  obtain ⟨out', ho', hg⟩ := hg
  exact ⟨_, ho.append ho', fun p e outs => by simp only [hf, hg, List.append_assoc]⟩

/-- A choice whose test reads neither a flag nor the outputs. -/
theorem SinksFree.ite {c : State → Prop} [∀ s, Decidable (c s)] {f g : State → State} {s : State}
    (hc : ∀ p e outs, c (withSinks p e outs s) ↔ c s) (hf : SinksFree f s) (hg : SinksFree g s) :
    SinksFree (fun s => if c s then f s else g s) s := by
  by_cases hs : c s
  · simpa only [SinksFree, hc, hs, if_true] using hf
  · simpa only [SinksFree, hc, hs, if_false] using hg

theorem sinksFree_id (s : State) : SinksFree (fun s => s) s := sinksFree_of_silent fun _ _ _ => rfl

theorem sinksFree_setParser (p : ParserState) (s : State) : SinksFree (setParser p) s :=
  sinksFree_of_silent fun _ _ _ => rfl

theorem sinksFree_accept (b : Byte) (s : State) : SinksFree (accept b) s := sinksFree_of_silent fun _ _ _ => rfl

theorem sinksFree_respond (r : Status) (d : Word) (s : State) : SinksFree (respond r d) s :=
  ⟨_, gated_response ⟨r, d⟩, fun _ _ _ => rfl⟩

/-- The delivery of a packet whose length is DL, and the recovery after it. -/
theorem sinksFree_deliver (s : State) : SinksFree (fun s => abort (deliver s.dl s)) s :=
  ⟨_, gated_packet ⟨s.dl, bufTake s s.dl.toNat⟩, fun _ _ _ => rfl⟩

/-- A diagnostic whose declared length is read from the state, as each of the parser's is. -/
theorem sinksFree_diagnose (k : ErrorKind) {d : State → BitVec 17} {s : State}
    (hd : ∀ p e outs, d (withSinks p e outs s) = d s) : SinksFree (fun s => diagnose k (d s) s) s :=
  ⟨_, gated_error ⟨k, contextOf (d s) s⟩, fun p e outs => by simp only [hd]; rfl⟩

/-- A diagnostic with DL as the declared length. -/
theorem sinksFree_diagnose_dl (k : ErrorKind) (s : State) : SinksFree (fun s => diagnose k (declaredDl s) s) s :=
  sinksFree_diagnose k fun _ _ _ => rfl

theorem sinksFree_seekFirst (b : Byte) (s : State) : SinksFree (seekFirst b) s :=
  .ite (fun _ _ _ => Iff.rfl) (sinksFree_of_silent fun _ _ _ => rfl) (sinksFree_id s)

theorem sinksFree_seekSecond (b : Byte) (s : State) : SinksFree (seekSecond b) s :=
  .ite (fun _ _ _ => Iff.rfl) (sinksFree_of_silent fun _ _ _ => rfl)
    (.comp (sinksFree_seekFirst b _) (sinksFree_diagnose_dl _ s))

theorem sinksFree_seekHeader (b : Byte) (s : State) : SinksFree (seekHeader b) s :=
  .ite (fun _ _ _ => Iff.rfl) (sinksFree_seekFirst b s) (sinksFree_seekSecond b s)

theorem sinksFree_readLength (s : State) : SinksFree readLength s :=
  .ite (fun _ _ _ => Iff.rfl)
    (.ite (fun _ _ _ => Iff.rfl) (sinksFree_diagnose _ fun _ _ _ => rfl) (sinksFree_of_silent fun _ _ _ => rfl))
    (sinksFree_id s)

theorem sinksFree_readType (s : State) : SinksFree readType s :=
  .ite (fun _ _ _ => Iff.rfl)
    (.ite (fun _ _ _ => Iff.rfl) (sinksFree_setParser _ s) (sinksFree_setParser _ s)) (sinksFree_id s)

theorem sinksFree_readBody (s : State) : SinksFree readBody s :=
  .ite (fun _ _ _ => Iff.rfl) (sinksFree_setParser _ s) (sinksFree_id s)

theorem sinksFree_checkChecksum (s : State) : SinksFree checkChecksum s :=
  .ite (fun _ _ _ => Iff.rfl) (sinksFree_setParser _ s) (sinksFree_diagnose_dl _ s)

theorem sinksFree_readChecksum (s : State) : SinksFree readChecksum s :=
  .ite (fun _ _ _ => Iff.rfl)
    (.comp (f := runFcrc) (sinksFree_checkChecksum _) (sinksFree_of_silent fun _ _ _ => rfl)) (sinksFree_id s)

theorem sinksFree_seekTrailer (b : Byte) (s : State) : SinksFree (seekTrailer b) s :=
  .ite (fun _ _ _ => Iff.rfl)
    (.ite (fun _ _ _ => Iff.rfl) (sinksFree_id s) (sinksFree_diagnose_dl _ s))
    (.ite (fun _ _ _ => Iff.rfl) (sinksFree_deliver s) (sinksFree_diagnose_dl _ s))

/-- PUSH's case of a parser state. -/
theorem sinksFree_pushIn (b : Byte) (s : State) (p : ParserState) : SinksFree (fun s => pushIn b s p) s := by
  have ha := sinksFree_accept b s
  cases p with
  | seekHeader => exact sinksFree_seekHeader b s
  | readLength => exact .comp (sinksFree_readLength _) ha
  | readType => exact .comp (sinksFree_readType _) ha
  | readBody => exact .comp (sinksFree_readBody _) ha
  | readChecksum => exact .comp (sinksFree_readChecksum _) ha
  | seekTrailer => exact .comp (sinksFree_seekTrailer b _) ha

/-- A PUSH that answers is one function of the state, which with any flags and outputs answers alike. -/
theorem ExecAnswer.push_sinksFree {b : Byte} {s t : State} (h : ExecAnswer s (.push b) t) :
    ∃ f, t = f s ∧ SinksFree f s ∧
      ∀ p e outs, ExecAnswer (withSinks p e outs s) (.push b) (f (withSinks p e outs s)) := by
  cases h with
  | pushInvalidArg _ hclosed => exact ⟨_, rfl, sinksFree_respond _ _ s, fun _ _ _ => .pushInvalidArg b hclosed⟩
  | pushInvalidState _ ho hp =>
    exact ⟨_, rfl, .comp (g := respondOk) (sinksFree_respond _ _ _) (sinksFree_diagnose_dl .internalError s),
      fun _ _ _ => .pushInvalidState b ho hp⟩
  | push _ q ho hq hc =>
    exact ⟨_, rfl, .comp (g := respondOk) (sinksFree_respond _ _ _) (sinksFree_pushIn b s q),
      fun _ _ _ => .push b q ho hq hc⟩

/-- The two runs of a PUSH compared: with any flags and outputs it answers the same state but for these, and adds to the
outputs what the flags let through. -/
theorem exec_push_withSinks {b : Byte} {s t : State} (h : exec (.push b) s = .next t) :
    ∃ out, Gated out ∧ t.outputs = s.outputs ++ out s.pktAtt s.errAtt ∧
      ∀ p e outs, exec (.push b) (withSinks p e outs s) = .next (withSinks p e (outs ++ out p e) t) := by
  obtain ⟨f, rfl, ⟨out, ho, hf⟩, hans⟩ := (execAnswer_of_next h).push_sinksFree
  have hrun (p e : Bool) (outs : List Output) :
      exec (.push b) (withSinks p e outs s) = .next (withSinks p e (outs ++ out p e) (f s)) := by
    rw [(hans p e outs).exec_eq, hf]
  exact ⟨out, ho, congrArg State.outputs (hf s.pktAtt s.errAtt s.outputs), hrun⟩

/-- Settles O42: each word is the encoding and the command has one answer; and a PUSH with the flags of s adds nothing
for a detached sink, and with any other flags answers alike. -/
theorem detachSilencesOneSink : Obligations.DetachSilencesOneSink := by
  unfold Obligations.DetachSilencesOneSink
  refine ⟨fun _ => decode_eq_ok_iff_eq_encode, fun _ => decode_eq_ok_iff_eq_encode,
    fun _ => ExecAnswer.pktDetach.exec_eq, fun _ => ExecAnswer.errDetach.exec_eq,
    fun b s t hdetached h q hq => ?_, fun b s t hdetached h x hx => ?_, fun b s t p e h => ?_⟩
  · obtain ⟨out, hgated, hout, -⟩ := exec_push_withSinks h
    rw [hout, hdetached, List.mem_append] at hq
    exact hq.resolve_right (hgated.packet _ q)
  · obtain ⟨out, hgated, hout, -⟩ := exec_push_withSinks h
    rw [hout, hdetached, List.mem_append] at hx
    exact hx.resolve_right (hgated.error _ x)
  · obtain ⟨out, -, -, hrun⟩ := exec_push_withSinks h
    exact ⟨_, hrun p e s.outputs, rfl⟩

end Sys2Proof.Machine
end

section
/-! SUPPORT. The taxonomy of exceptions: the causes of each diagnostic (O35) and of INVALID_ARG (O43), and the step of a
block with nothing at its command port (O8). -/

namespace Sys2Proof.Machine

/-! ## The causes of a diagnostic -/

/-- The diagnostics a PUSH of b in s can take, one constructor per cause (R192 to R194), each with the state, the cursor
and the declared length of its context (R195). -/
inductive DiagnosticCause (b : Byte) (s : State) : ErrorEvent → Prop
  | strayHeaderByte (bytes : List Byte) (state : s.state = 0#3) (cur : s.cur = 1#16) (byte : b ≠ Config.star) :
      DiagnosticCause b s ⟨.headerNotFoundYet, s.state, 1#16, 0#17, bytes⟩
  | lengthOverCapacity (bytes : List Byte) (state : s.state = 1#3) (cur : s.cur = 3#16)
      (tooLong : s.cap.toNat < (declaredLength (accept b s)).toNat) :
      DiagnosticCause b s ⟨.invalidPacket, s.state, 4#16, declaredLength (accept b s), bytes⟩
  | checksumMismatch (bytes : List Byte) (state : s.state = 4#3) (cur : s.cur.toNat + 3 = s.dl.toNat)
      (mismatch : receivedChecksum (accept b s) ≠ crc32 (checksumDomain (accept b s))) :
      DiagnosticCause b s ⟨.invalidPacket, s.state, s.dl - 2#16, declaredDl s, bytes⟩
  | firstTrailerByte (bytes : List Byte) (state : s.state = 5#3) (cur : s.cur.toNat + 2 = s.dl.toNat)
      (byte : b ≠ Config.star) :
      DiagnosticCause b s ⟨.invalidPacket, s.state, s.dl - 1#16, declaredDl s, bytes⟩
  | secondTrailerByte (bytes : List Byte) (state : s.state = 5#3) (cur : s.cur.toNat + 1 = s.dl.toNat)
      (byte : b ≠ Config.slash) :
      DiagnosticCause b s ⟨.invalidPacket, s.state, s.dl, declaredDl s, bytes⟩
  | invalidState (bytes : List Byte) (state : s.state = 6#3 ∨ s.state = 7#3) :
      DiagnosticCause b s ⟨.internalError, s.state, s.cur, declaredDl s, bytes⟩

theorem DiagnosticCause.kind_ne_invalidArg {b : Byte} {s : State} {e : ErrorEvent} (h : DiagnosticCause b s e) :
    e.kind ≠ .invalidArg := by
  cases h <;> simp

theorem DiagnosticCause.ctx_state {b : Byte} {s : State} {e : ErrorEvent} (h : DiagnosticCause b s e) :
    e.ctx.state = s.state := by
  cases h <;> rfl

/-- From s to t outputs have been added, and each diagnostic among them has its cause in a PUSH of b with an error sink
attached. -/
abbrev DiagnosticsCaused (b : Byte) (s t : State) : Prop :=
  ∃ outs, t.outputs = s.outputs ++ outs ∧ ∀ e, .error e ∈ outs → s.errAtt = true ∧ DiagnosticCause b s e

theorem diagnosticsCaused_silent {b : Byte} {s t : State} (h : t.outputs = s.outputs) : DiagnosticsCaused b s t :=
  ⟨[], by rw [h, List.append_nil], by simp⟩

theorem diagnosticsCaused_deliver (b : Byte) (n : Half) (s : State) :
    DiagnosticsCaused b s (abort (deliver n (accept b s))) :=
  ⟨_, rfl, fun e he => by cases hatt : s.pktAtt <;> simp [hatt] at he⟩

theorem diagnosticsCaused_diagnose {b : Byte} {s u : State} {k : ErrorKind} {d : BitVec 17}
    (hout : u.outputs = s.outputs) (hatt : u.errAtt = s.errAtt) (h : DiagnosticCause b s ⟨k, contextOf d u⟩) :
    DiagnosticsCaused b s (diagnose k d u) := by
  refine ⟨ifAttached s.errAtt (.error ⟨k, contextOf d u⟩), by rw [diagnose_outputs, hout, hatt]; rfl, fun e he => ?_⟩
  cases hs : s.errAtt with
  | false => simp [ifAttached, hs] at he
  | true =>
    have heq : e = ⟨k, contextOf d u⟩ := by simpa [ifAttached, hs] using he
    exact ⟨rfl, heq ▸ h⟩

/-- A diagnostic after its byte has been accepted: the cursor has moved on (R195). The bytes of the context are left
open. -/
theorem diagnosticsCaused_diagnose_accept {b : Byte} {s : State} {k : ErrorKind} {d : BitVec 17}
    (h : ∀ bytes, DiagnosticCause b s ⟨k, s.state, s.cur + 1#16, d, bytes⟩) :
    DiagnosticsCaused b s (diagnose k d (accept b s)) :=
  diagnosticsCaused_diagnose rfl rfl (h _)

theorem diagnosticsCaused_respondOk {b : Byte} {s t : State} (h : DiagnosticsCaused b s t) :
    DiagnosticsCaused b s (respondOk t) := by
  obtain ⟨outs, hout, hcaused⟩ := h
  exact ⟨outs ++ [okResponse], by rw [respondOk_outputs, hout, List.append_assoc]; rfl,
    fun e he => hcaused e (by simpa [okResponse] using he)⟩

/-! ## Each case of PUSH -/

theorem Parsing.diagnosticsCaused_seekHeader {s : State} (h : Parsing s .seekHeader) (b : Byte) :
    DiagnosticsCaused b s (pushIn b s .seekHeader) := by
  obtain ⟨hcur, -⟩ | ⟨hcur, -⟩ := h.seekHeader_cases
  · obtain ⟨-, hquiet, -⟩ := h.pushIn_empty hcur b
    exact diagnosticsCaused_silent hquiet
  · by_cases hb : b = Config.star
    · rw [hb, pushIn_star hcur]
      exact diagnosticsCaused_silent rfl
    · have hr := parsing_respondOk.mp (h.of_recovered (h.header_mismatch_recovers hcur))
      obtain ⟨-, hquiet, -⟩ := hr.pushIn_empty rfl b
      obtain ⟨hdl, -⟩ := rowHolds_seekHeader.mp h.row
      have hctx : contextOf (declaredDl s) s = ⟨s.state, 1#16, 0#17, frameSoFar s⟩ := by
        rw [contextOf_eq _ h.cur_lt_cap.le, hcur, declaredDl, hdl]
        rfl
      rw [pushIn_mismatch hcur hb, DiagnosticsCaused, hquiet]
      exact diagnosticsCaused_diagnose rfl rfl (hctx ▸ .strayHeaderByte _ h.state hcur hb)

theorem Parsing.diagnosticsCaused_readLength {s : State} (h : Parsing s .readLength) (b : Byte) :
    DiagnosticsCaused b s (pushIn b s .readLength) := by
  obtain ⟨-, hcur | hcur, -⟩ := rowHolds_readLength.mp h.row
  · rw [pushIn_firstLength h.state hcur]
    exact diagnosticsCaused_silent rfl
  · by_cases hle : (Frame.declared (bufRead s 2) b).toNat ≤ s.cap.toNat
    · rw [pushIn_lengthAccepted hcur hle]
      exact diagnosticsCaused_silent rfl
    · have htoolong : s.cap.toNat < (declaredLength (accept b s)).toNat := by
        rw [declaredLength_accept hcur]
        exact not_le.mp hle
      have hcursor : s.cur + 1#16 = 4#16 := by rw [hcur]; rfl
      rw [pushIn_lengthRejected hcur (not_le.mp hle), ← declaredLength_accept hcur]
      exact diagnosticsCaused_diagnose_accept fun bytes => hcursor ▸ .lengthOverCapacity bytes h.state hcur htoolong

theorem Inside.diagnosticsCaused {s : State} (h : Inside s) (b : Byte) :
    DiagnosticsCaused b s (pushIn b s (insidePhase s.cur.toNat s.dl.toNat)) := by
  obtain ⟨-, hlt, hlen⟩ := rowHolds_insidePhase.mp h.row
  have h13 := (dl_bounds_of_lengthHeld hlen).1
  by_cases hcur : s.cur.toNat + 3 < s.dl.toNat
  · rw [h.pushIn_eq b hcur]
    exact diagnosticsCaused_silent rfl
  · have hlast : s.cur.toNat + 3 = s.dl.toNat := by omega
    have hphase := insidePhase_readChecksum (cur := s.cur.toNat) (dl := s.dl.toNat) (by omega) (by omega)
    have hs : Parsing s .readChecksum := hphase ▸ h
    rw [hphase]
    by_cases hsum : ChecksumMatches b s
    · rw [hs.pushIn_checksumMatched hlast hsum]
      exact diagnosticsCaused_silent rfl
    · have hcursor : s.cur + 1#16 = s.dl - 2#16 := by bv_omega
      rw [hs.pushIn_checksumMismatched hlast hsum]
      exact diagnosticsCaused_diagnose_accept fun bytes =>
        hcursor ▸ .checksumMismatch bytes hs.state hlast (mt (hs.checksumMatches_iff b hlast).mp hsum)

theorem Parsing.diagnosticsCaused_seekTrailer {s : State} (h : Parsing s .seekTrailer) (b : Byte) :
    DiagnosticsCaused b s (pushIn b s .seekTrailer) := by
  obtain ⟨hcur | ⟨hcur, -⟩, -, -⟩ := rowHolds_seekTrailer.mp h.row
  · rw [h.pushIn_firstTrailer b hcur]
    split
    · exact diagnosticsCaused_silent rfl
    · rename_i hb
      have hcursor : s.cur + 1#16 = s.dl - 1#16 := by bv_omega
      exact diagnosticsCaused_diagnose_accept fun bytes => hcursor ▸ .firstTrailerByte bytes h.state hcur hb
  · rw [h.pushIn_secondTrailer b hcur]
    split
    · exact diagnosticsCaused_deliver b s.dl s
    · rename_i hb
      have hcursor : s.cur + 1#16 = s.dl := by bv_omega
      exact diagnosticsCaused_diagnose_accept fun bytes => hcursor ▸ .secondTrailerByte bytes h.state hcur hb

theorem Parsing.diagnosticsCaused {s : State} {p : ParserState} (h : Parsing s p) (b : Byte) :
    DiagnosticsCaused b s (pushIn b s p) := by
  have hinside (hp : p = .readType ∨ p = .readBody ∨ p = .readChecksum) : DiagnosticsCaused b s (pushIn b s p) := by
    rw [h.eq_insidePhase hp]
    exact (h.inside hp).diagnosticsCaused b
  cases p with
  | seekHeader => exact h.diagnosticsCaused_seekHeader b
  | readLength => exact h.diagnosticsCaused_readLength b
  | readType => exact hinside (.inl rfl)
  | readBody => exact hinside (.inr (.inl rfl))
  | readChecksum => exact hinside (.inr (.inr rfl))
  | seekTrailer => exact h.diagnosticsCaused_seekTrailer b

/-- A command puts out one response; or it is a PUSH on an open block, and its diagnostics have their causes. -/
theorem ExecAnswer.diagnosticsCaused {i : Instr} {s t : State} (h : ExecAnswer s i t) :
    (∃ r, t.outputs = s.outputs ++ [.response r]) ∨
    ∃ b, i = .push b ∧ s.opened = true ∧ DiagnosticsCaused b s t := by
  cases h with
  | pushInvalidState b ho hp =>
    have hcause : DiagnosticCause b s ⟨.internalError, contextOf (declaredDl s) s⟩ :=
      .invalidState _ (ofCode_eq_none.mp hp)
    exact .inr ⟨b, rfl, ho, diagnosticsCaused_respondOk (diagnosticsCaused_diagnose rfl rfl hcause)⟩
  | push b p ho hp hc =>
    have hs : Parsing s p := parsing_of_consistent ho ((consistent_open ho hp).trans hc) hp
    exact .inr ⟨b, rfl, ho, diagnosticsCaused_respondOk (hs.diagnosticsCaused b)⟩
  | _ => exact .inl ⟨_, rfl⟩

/-- Settles O35: the diagnostic is one a PUSH has put out, so it has one of the six causes. -/
theorem diagnosticsHaveOnlyTheirCauses : Obligations.DiagnosticsHaveOnlyTheirCauses := by
  unfold Obligations.DiagnosticsHaveOnlyTheirCauses
  intro i s t e h hout
  rcases (execAnswer_of_next h).diagnosticsCaused with ⟨r, hr⟩ | ⟨b, rfl, ho, outs, hadd, hcaused⟩
  · simp [hr] at hout
  · have houts : outs = [.error e, okResponse] := List.append_cancel_left (hadd.symm.trans hout)
    obtain ⟨hatt, hcause⟩ := hcaused e (by simp [houts])
    refine ⟨b, rfl, ho, hatt, hcause.ctx_state, hcause.kind_ne_invalidArg, ?_⟩
    cases hcause with
    | strayHeaderByte bytes hst hcur hb => exact ⟨fun _ => ⟨hst, hcur, hb, rfl, rfl⟩, nofun, nofun⟩
    | lengthOverCapacity bytes hst hcur htoolong => exact ⟨nofun, fun _ => .inl ⟨hst, hcur, htoolong, rfl, rfl⟩, nofun⟩
    | checksumMismatch bytes hst hcur hsum =>
      exact ⟨nofun, fun _ => .inr (.inl ⟨hst, hcur, hsum, rfl, rfl⟩), nofun⟩
    | firstTrailerByte bytes hst hcur hb =>
      exact ⟨nofun, fun _ => .inr (.inr (.inl ⟨hst, hcur, hb, rfl, rfl⟩)), nofun⟩
    | secondTrailerByte bytes hst hcur hb =>
      exact ⟨nofun, fun _ => .inr (.inr (.inr ⟨hst, hcur, hb, rfl, rfl⟩)), nofun⟩
    | invalidState bytes hst => exact ⟨nofun, nofun, fun _ => ⟨hst, rfl, rfl⟩⟩

/-! ## The causes of INVALID_ARG -/

/-- The causes of INVALID_ARG that a legal word has (R191 b to d). -/
abbrev InvalidArgCause (i : Instr) (s : State) : Prop :=
  ((∃ b, i = .push b) ∧ s.opened = false) ∨ (i = .close ∧ s.opened = false) ∨
    ∃ cap, i = .openWith cap ∧ (cap.toNat < 13 ∨ s.maxCapacity < cap.toNat)

/-- With a cause a command answers INVALID_ARG and changes nothing else; without one its response is OK. -/
theorem ExecAnswer.invalidArg_or_ok {i : Instr} {s t : State} (h : ExecAnswer s i t) :
    (InvalidArgCause i s ∧ t = respond .invalidArg 0#32 s) ∨
    (¬ InvalidArgCause i s ∧ ∃ d, t.outputs.getLast? = some (.response ⟨.ok, d⟩)) := by
  cases h with
  | openInvalidArg cap hcap => exact .inl ⟨.inr (.inr ⟨cap, rfl, not_capacityAccepted_iff.mp hcap⟩), rfl⟩
  | closeInvalidArg hclosed => exact .inl ⟨.inr (.inl ⟨rfl, hclosed⟩), rfl⟩
  | pushInvalidArg b hclosed => exact .inl ⟨.inl ⟨⟨b, rfl⟩, hclosed⟩, rfl⟩
  | openWith cap hcap =>
    exact .inr ⟨by simpa [InvalidArgCause] using capacityAccepted_iff.mp hcap, _, List.getLast?_concat⟩
  | close ho => exact .inr ⟨by simp [InvalidArgCause, ho], _, List.getLast?_concat⟩
  | pushInvalidState b ho => exact .inr ⟨by simp [InvalidArgCause, ho], _, List.getLast?_concat⟩
  | push b p ho => exact .inr ⟨by simp [InvalidArgCause, ho], _, List.getLast?_concat⟩
  | _ => exact .inr ⟨by simp [InvalidArgCause], _, List.getLast?_concat⟩

/-- The causes of INVALID_ARG for a command word (R191). -/
abbrev InvalidArgWord (w : Word) (s : State) : Prop :=
  wellFormedWord w = false ∨ ((∃ b, decode w = .ok (.push b)) ∧ s.opened = false) ∨
    (decode w = .ok .close ∧ s.opened = false) ∨
    ∃ cap, decode w = .ok (.openWith cap) ∧ (cap.toNat < 13 ∨ s.maxCapacity < cap.toNat)

/-- A legal word has the causes of its command. -/
theorem invalidArgWord_iff {w : Word} {i : Instr} {s : State} (hw : decode w = .ok i) :
    InvalidArgWord w s ↔ InvalidArgCause i s := by
  have hlegal : wellFormedWord w = true := wellFormedWord_iff_decode.mpr ⟨i, hw⟩
  simp [InvalidArgWord, InvalidArgCause, hlegal, hw]

/-- With a cause a word is answered INVALID_ARG and nothing else changes; without one the response is OK. An
illegal word is a cause of its own (R88). -/
theorem runWord_invalidArg_or_ok {w : Word} {s t : State} (h : runWord w s = .next t) :
    (InvalidArgWord w s ∧ t = respond .invalidArg 0#32 s) ∨
    (¬ InvalidArgWord w s ∧ ∃ d, t.outputs.getLast? = some (.response ⟨.ok, d⟩)) := by
  rcases decode_cases w with ⟨i, hi⟩ | ⟨e, he⟩
  · rw [runWord_ok s hi] at h
    rw [invalidArgWord_iff hi]
    exact (execAnswer_of_next h).invalidArg_or_ok
  · have hillegal : wellFormedWord w = false := by
      simp [← Bool.not_eq_true, wellFormedWord_iff_decode, he]
    rw [runWord_error s he] at h
    cases h
    exact .inl ⟨.inl hillegal, rfl⟩

/-- A diagnostic of kind InvalidArg has no cause, so no word puts one out. -/
theorem runWord_no_invalidArgEvent {w : Word} {s t : State} {ctx : Context} (h : runWord w s = .next t)
    (he : .error ⟨.invalidArg, ctx⟩ ∈ t.outputs) : .error ⟨.invalidArg, ctx⟩ ∈ s.outputs := by
  rcases decode_cases w with ⟨i, hi⟩ | ⟨e, hw⟩
  · rw [runWord_ok s hi] at h
    rcases (execAnswer_of_next h).diagnosticsCaused with ⟨r, hr⟩ | ⟨b, -, -, outs, hadd, hcaused⟩
    · simpa [hr] using he
    · rw [hadd, List.mem_append] at he
      exact he.resolve_right fun hnew => (hcaused _ hnew).2.kind_ne_invalidArg rfl
  · rw [runWord_error s hw] at h
    cases h
    simpa using he

/-- A step that answers a next state with a command word at the port has run the word. -/
theorem runWord_of_step {s t : State} {w : Word} {rest : List Input} (hin : s.inputs = .command w :: rest)
    (h : step s = .next t) : runWord w (withInputs rest s) = .next t := by
  cases hl : launchable s with
  | true => exact (step_command hl hin).symm.trans h
  | false => simp [step, hin, fromLaunchState_refuses _ hl] at h

/-- Settles O43: the word has run, and it was answered INVALID_ARG alone for a cause or OK without one. -/
theorem invalidArgHasExactlyFourCauses : Obligations.InvalidArgHasExactlyFourCauses := by
  unfold Obligations.InvalidArgHasExactlyFourCauses
  intro s t w rest hin h
  have hrun := runWord_of_step hin h
  have hevents (ctx : Context) (he : .error ⟨.invalidArg, ctx⟩ ∈ t.outputs) : .error ⟨.invalidArg, ctx⟩ ∈ s.outputs :=
    runWord_no_invalidArgEvent (s := withInputs rest s) hrun he
  rcases runWord_invalidArg_or_ok hrun with ⟨hcause, rfl⟩ | ⟨hnone, d, hlast⟩
  · exact ⟨iff_of_true List.getLast?_concat hcause, fun _ => rfl, hevents⟩
  · have hok : t.outputs.getLast? ≠ some invalidArgResponse := by simp [hlast, invalidArgResponse]
    exact ⟨iff_of_false hok hnone, fun hinv => absurd hinv hok, hevents⟩

/-! ## Nothing at the command port -/

/-- Settles O8: from a launch state the step with no input is the idle one. -/
theorem blockWithoutCommandHoldsItsState : Obligations.BlockWithoutCommandHoldsItsState :=
  fun _ => step_idle

end Sys2Proof.Machine
end

section
/-! SUPPORT. What exec refuses (O38), and the registers after a hardware reset (O10). -/

namespace Sys2Proof.Machine

/-! ## What a command refuses -/

/-- On an open block outside the launch states PUSH is refused: its STATE code names a parser state, whose row is
broken (R230). -/
theorem exec_push_refuses {s : State} (b : Byte) (ho : s.opened = true) (hl : launchable s = false) :
    exec (.push b) s = .refused .inconsistentLaunchState := by
  rcases execPush_cases b s with ⟨hclosed, -⟩ | ⟨-, hnone, -⟩ | ⟨p, -, hp, hc, -⟩ | ⟨p, -, -, -, he⟩
  · simp [ho] at hclosed
  · simp [launchable, hnone] at hl
  · simp [launchable, consistent_open ho hp, hc] at hl
  · exact he

/-- Every refusal of a command is that of a PUSH on an open block outside the launch states. -/
theorem push_of_exec_refused {i : Instr} {s : State} {r : Refusal} (h : exec i s = .refused r) :
    r = .inconsistentLaunchState ∧ (∃ b, i = .push b) ∧ s.opened = true ∧ launchable s = false := by
  rcases exec_cases i s with ⟨t, ha⟩ | ⟨b, p, rfl, ho, -, -, he⟩
  · cases ha.exec_eq.symm.trans h
  · cases he.symm.trans h
    have hl : launchable s = false := Bool.eq_false_iff.mpr fun hl => exec_ne_refused hl _ _ he
    exact ⟨rfl, ⟨b, rfl⟩, ho, hl⟩

/-- Settles O38: the STATE codes of 0 to 5 that break R31 are those of no launch state. -/
theorem onlyAnInconsistentPushIsRefused : Obligations.OnlyAnInconsistentPushIsRefused := by
  unfold Obligations.OnlyAnInconsistentPushIsRefused
  constructor
  · intro b s ho hcode hc
    exact exec_push_refuses b ho (not_launchable_iff.mpr ⟨hcode, hc⟩)
  · intro i s r h
    obtain ⟨hr, hpush, ho, hl⟩ := push_of_exec_refused h
    exact ⟨hr, hpush, ho, not_launchable_iff.mp hl⟩

/-! ## Hardware reset -/

/-- Settles O10: the step is the hardware reset, whose registers are those of R33, with no byte listed in BUF. -/
theorem hardwareResetSetsEveryRegister : Obligations.HardwareResetSetsEveryRegister := by
  unfold Obligations.HardwareResetSetsEveryRegister
  intro s rest hin
  exact ⟨_, step_reset hin, by simp⟩

end Sys2Proof.Machine
end
